-- ==== Sys2Proof/Word.lean ====
section
/-!
DEFINITION. The words, numbers and small fixed tables of the RKA-464 model: 32-bit words, port, bank and
tag numbers, and the tables of four (one entry per port or bank) and of eight (one entry per tag).
-/
namespace Sys2Proof

/-- A 32-bit word: a cell value, an operand, or one word of a frame (Conventions of `spec/00_scope.md`). -/
abbrev Word := BitVec 32

/-- An 8-bit field of a frame (11.1). -/
abbrev Byte := BitVec 8

/-- A 16-bit count: the table generation (R122) and the event sequence numbers (R75). -/
abbrev Count16 := BitVec 16

/-- A port number, 0 to 3. -/
abbrev Port := Fin 4

/-- A bank number, 0 to 3. -/
abbrev Bank := Fin 4

/-- A tag, 0 to 7. -/
abbrev Tag := Fin 8

/-- A cell index; the indices the part has are 0 to 65,535 (R4). -/
abbrev CellIx := Nat

/-- One entry for each of the four ports, or for each of the four banks. -/
structure Four (α : Type) where
  zero : α
  one : α
  two : α
  three : α
  deriving DecidableEq, Repr

/-- The entry of a port or a bank. -/
def Four.get {α : Type} (x : Four α) : Fin 4 → α
  | 0 => x.zero
  | 1 => x.one
  | 2 => x.two
  | 3 => x.three

/-- Replaces the entry of one port or bank. -/
def Four.set {α : Type} (x : Four α) (i : Fin 4) (v : α) : Four α :=
  match i with
  | 0 => { x with zero := v }
  | 1 => { x with one := v }
  | 2 => { x with two := v }
  | 3 => { x with three := v }

/-- The same entry for all four. -/
def Four.all {α : Type} (v : α) : Four α := ⟨v, v, v, v⟩

/-- Applies one function to every entry. -/
def Four.map {α β : Type} (f : α → β) (x : Four α) : Four β :=
  ⟨f x.zero, f x.one, f x.two, f x.three⟩

/-- The four entries in ascending order of number. -/
def Four.toList {α : Type} (x : Four α) : List α := [x.zero, x.one, x.two, x.three]

/-- The four numbers in ascending order. -/
def allFour : List (Fin 4) := [0, 1, 2, 3]

/-- One entry for each of the eight tags of a port. -/
structure Eight (α : Type) where
  zero : α
  one : α
  two : α
  three : α
  four : α
  five : α
  six : α
  seven : α
  deriving DecidableEq, Repr

/-- The entry of a tag. -/
def Eight.get {α : Type} (x : Eight α) : Fin 8 → α
  | 0 => x.zero
  | 1 => x.one
  | 2 => x.two
  | 3 => x.three
  | 4 => x.four
  | 5 => x.five
  | 6 => x.six
  | 7 => x.seven

/-- Replaces the entry of one tag. -/
def Eight.set {α : Type} (x : Eight α) (i : Fin 8) (v : α) : Eight α :=
  match i with
  | 0 => { x with zero := v }
  | 1 => { x with one := v }
  | 2 => { x with two := v }
  | 3 => { x with three := v }
  | 4 => { x with four := v }
  | 5 => { x with five := v }
  | 6 => { x with six := v }
  | 7 => { x with seven := v }

/-- The same entry for all eight tags. -/
def Eight.all {α : Type} (v : α) : Eight α := ⟨v, v, v, v, v, v, v, v⟩

/-- The eight tags in ascending order. -/
def allTags : List Tag := [0, 1, 2, 3, 4, 5, 6, 7]

end Sys2Proof
end

