-- ==== Sys2Proof/Config.lean ====
section
/-!
DEFINITION. The fixed numbers of the part, and the free values: the choices the manual leaves open, as
constants with no body, so that no proof can see which way they fall.
-/
namespace Sys2Proof

/-- Cells in the Cell Store (R1). -/
def Config.cellCount : Nat := 65536

/-- Entries the Park List holds at most (R41). -/
def Config.parkCapacity : Nat := 24

/-- Watches the Watch Table holds at most (R63). -/
def Config.watchCapacity : Nat := 32

/-- Watches of one port at most (R63). -/
def Config.watchCapacityPerPort : Nat := 12

/-- Records an event queue holds at most (R74). -/
def Config.eventCapacity : Nat := 16

/-- Cells a stamp list holds at most (R10). -/
def Config.stampCapacity : Nat := 64

/-- A bypass count at which the oldest entry is picked next (R87, R88). -/
def Config.bypassCap : Nat := 4

/-- The debt at which an expiry begins an urgent refresh (R104). -/
def Config.urgentDebt : Nat := 4

/-- The largest refresh debt (R102). -/
def Config.debtCap : Nat := 6

/-- The receive timer's limit in µs (R148). -/
def Config.linkLossMicros : Nat := 400

/-- The send timer's limit in µs (R149). -/
def Config.idleMicros : Nat := 100

/-- The patience value that means no deadline (R17, R43). -/
def Config.unlimitedPatience : Nat := 65535

/-- FREE VALUE (DESIGN CHOICE, notes/assumptions/3.md). Where several happenings fall together and the manual
says they are taken "in either order", the model takes them in rising order of this key: the first argument
is the state's counter of such choices, the second the number of the happening. It has no body, so every
order is left possible and none is proved. -/
opaque Config.orderKey : Nat → Nat → Nat

/-- FREE VALUE (DESIGN CHOICE, notes/assumptions/4.md). How many µs after its deadline a parked entry's
expiry is taken: at most 1 ms (R46). The arguments are the entry's port, tag and deadline. -/
opaque Config.expiryDelay : Port → Tag → Nat → Fin 1001

/-- FREE VALUE (DESIGN CHOICE, notes/assumptions/28.md). Which expiry is taken next after a pass of a cascade
(R53): a number below the count of the chain's entries whose deadline has passed names one of them, any other
number none. The argument is the state's counter of choices. -/
opaque Config.expiresNext : Nat → Nat

/-- FREE VALUE (DESIGN CHOICE, notes/assumptions/29.md). How far an access in progress has come when a CANCEL or the
start of a teardown claims an entry of its chain (R51, R56, R58): 0 for not begun, n + 1 for its opening operation and n
passes of its cascade; and, at the next count, how many entries of the next pass. The argument is the state's counter of
choices. -/
opaque Config.passesTaken : Nat → Nat

end Sys2Proof
end

