-- ==== Sys2Proof/Syntax.lean ====
section
/-!
DEFINITION. The commands of the RKA-464: one constructor of `Instr` for each row of `spec/opcode_table.json`,
with the named values their fields take. A host request carries its port and its frame as received; a
happening inside the part carries the port or bank it falls on.
-/
namespace Sys2Proof

/-- The 21 request kinds (11.1, R171). -/
inductive Kind where
  | operate
  | groupRead
  | setRecovery
  | cancel
  | watch
  | unwatch
  | fetchEvents
  | attnOn
  | attnOff
  | quiesce
  | wake
  | writeRegion
  | readRegion
  | writeSettings
  | initCells
  | commit
  | reopen
  | stay
  | join
  | leave
  | status
  deriving DecidableEq, Repr

/-- A received frame between its marks, its kind apart: the header's tag and payload length fields, and the
payload words that came (R150). The reserved header bits are not read (R171) and not kept. -/
structure Frame where
  tag : Tag
  length : Byte
  payload : List Word
  deriving DecidableEq, Repr

/-- The eleven predicates (R17, R22). -/
inductive Pred where
  | always
  | eq
  | ne
  | lt
  | le
  | gt
  | ge
  | ult
  | ule
  | ugt
  | uge
  deriving DecidableEq, Repr

/-- The ownership conditions (R23). -/
inductive OwnCond where
  | any
  | none
  | mine
  | notMine
  deriving DecidableEq, Repr

/-- The update kinds (R25). -/
inductive Update where
  | none
  | set
  | add
  | sub
  | and
  | or
  | xor
  | max
  | min
  deriving DecidableEq, Repr

/-- The stamp actions (R24, R27). -/
inductive StampAct where
  | keep
  | stamp
  | unstamp
  deriving DecidableEq, Repr

/-- The fields of an OPERATE other than its cell (R17). -/
structure OpFields where
  pred : Pred
  cmp : Word
  own : OwnCond
  upd : Update
  arg : Word
  stamp : StampAct
  patience : Nat
  deriving DecidableEq, Repr

/-- A watch's trigger (R63): CHANGE, or a predicate with its compare operand. -/
inductive Trigger where
  | change
  | pred (q : Pred) (cmp : Word)
  deriving DecidableEq, Repr

/-- A watch's mode (R63). -/
inductive WatchMode where
  | once
  | repeating
  deriving DecidableEq, Repr

/-- The fields of a WATCH other than its cell (R64). -/
structure WatchFields where
  trigger : Trigger
  mode : WatchMode
  reportNow : Bool
  deriving DecidableEq, Repr

/-- The rights of a port in a region (R119). -/
inductive Right where
  | none
  | read
  | update
  deriving DecidableEq, Repr

/-- The loss policies (R119). -/
inductive LossPolicy where
  | restore
  | release
  | hold
  deriving DecidableEq, Repr

/-- A region entry (R119). -/
structure RegionEntry where
  valid : Bool
  base : CellIx
  length : Nat
  rights : Four Right
  policy : LossPolicy
  default : Word
  deriving DecidableEq, Repr

/-- The page policies (R92, R121). -/
inductive PagePolicy where
  | opened
  | closed
  deriving DecidableEq, Repr

/-- The device settings record (R121). -/
structure Settings where
  interval : Nat
  page : PagePolicy
  mask : BitVec 4
  deriving DecidableEq, Repr

/-- The contents of an INIT_CELLS (R134). -/
structure InitFields where
  base : CellIx
  count : Nat
  value : Word
  recovery : Option Word
  deriving DecidableEq, Repr

/-- The commands: the rows of `spec/opcode_table.json`, in the table's order. -/
inductive Instr where
  | operate (p : Port) (f : Frame)
  | groupRead (p : Port) (f : Frame)
  | setRecovery (p : Port) (f : Frame)
  | cancel (p : Port) (f : Frame)
  | watch (p : Port) (f : Frame)
  | unwatch (p : Port) (f : Frame)
  | fetchEvents (p : Port) (f : Frame)
  | attnOn (p : Port) (f : Frame)
  | attnOff (p : Port) (f : Frame)
  | quiesce (p : Port) (f : Frame)
  | wake (p : Port) (f : Frame)
  | writeRegion (p : Port) (f : Frame)
  | readRegion (p : Port) (f : Frame)
  | writeSettings (p : Port) (f : Frame)
  | initCells (p : Port) (f : Frame)
  | commit (p : Port) (f : Frame)
  | reopen (p : Port) (f : Frame)
  | stay (p : Port) (f : Frame)
  | join (p : Port) (f : Frame)
  | leave (p : Port) (f : Frame)
  | status (p : Port) (f : Frame)
  | badKind (p : Port) (code : Byte) (f : Frame)
  | idleFrame (p : Port) (f : Frame)
  | frameCheck (p : Port) (words : List Word)
  | linkLoss (p : Port)
  | sendIdle (p : Port)
  | responseSent (p : Port)
  | deviceReset
  | resetRelease
  | refreshIntervalExpiry
  | parkExpiry (p : Port) (t : Tag)
  | bankPick (b : Bank)
  | rowCloseEnd (b : Bank)
  | rowOpenEnd (b : Bank)
  | operateAccess (b : Bank)
  | groupReadAccess (b : Bank)
  | setRecoveryAccess (b : Bank)
  | watchAccess (b : Bank)
  | groupWrite (b : Bank)
  | recoveryAccess (b : Bank)
  | teardownWalkStart (p : Port)
  | teardownComplete (p : Port)
  | stepToRun
  | drainEnd
  | refreshStart
  | refreshEnd
  | retentionDecision
  | retentionPlacingStart
  | retentionEntry
  | retentionExitEnd
  deriving DecidableEq, Repr

end Sys2Proof
end

