-- ==== Sys2Proof/Decode.lean ====
section
/-!
DEFINITION. Reading the wire: the frame check and the header (R150, R171), the fields of the request payloads
(11.2, R172), and the host's `decodeTableWord`. The opcode table gives no row any bits, so `decodeTableWord`
refuses every word; a received frame is turned into its command by `decodeFrame`.
-/
namespace Sys2Proof

/-- The number in bits `lo` to `lo + len - 1` of a word, bit 0 being the least significant (11). -/
def bitsOf (w : Word) (lo len : Nat) : Nat := (w.toNat >>> lo) % 2 ^ len

/-- A word with each listed number at its bit position and every other bit 0 (R173). -/
def packWord (fields : List (Nat × Nat)) : Word :=
  BitVec.ofNat 32 (fields.foldl (fun acc x => acc + x.2 * 2 ^ x.1) 0)

/-! ### Kinds -/

/-- The code of a request kind (11.1). -/
def Kind.code : Kind → Byte
  | .operate => 0x01
  | .groupRead => 0x02
  | .setRecovery => 0x03
  | .cancel => 0x04
  | .watch => 0x05
  | .unwatch => 0x06
  | .fetchEvents => 0x07
  | .attnOn => 0x08
  | .attnOff => 0x09
  | .quiesce => 0x0A
  | .wake => 0x0B
  | .writeRegion => 0x0C
  | .readRegion => 0x0D
  | .writeSettings => 0x0E
  | .initCells => 0x0F
  | .commit => 0x10
  | .reopen => 0x11
  | .stay => 0x12
  | .join => 0x13
  | .leave => 0x14
  | .status => 0x15

/-- The 21 request kinds in the order of their codes (11.1). -/
def allKinds : List Kind :=
  [.operate, .groupRead, .setRecovery, .cancel, .watch, .unwatch, .fetchEvents, .attnOn, .attnOff, .quiesce, .wake,
   .writeRegion, .readRegion, .writeSettings, .initCells, .commit, .reopen, .stay, .join, .leave, .status]

/-- The request kind a code names, if it names one (R171). -/
def Kind.ofCode (c : Byte) : Option Kind := allKinds.find? (fun k => k.code == c)

/-- The request payload of a kind, in words (11.1). -/
def Kind.payloadWords : Kind → Nat
  | .operate => 4
  | .groupRead => 1
  | .setRecovery => 2
  | .cancel => 1
  | .watch => 2
  | .unwatch => 1
  | .fetchEvents => 0
  | .attnOn => 0
  | .attnOff => 0
  | .quiesce => 0
  | .wake => 0
  | .writeRegion => 4
  | .readRegion => 1
  | .writeSettings => 1
  | .initCells => 4
  | .commit => 1
  | .reopen => 0
  | .stay => 0
  | .join => 0
  | .leave => 0
  | .status => 0

/-- The code of a kind the part does not take from a host: every code from 16h to FFh (R171). -/
def unknownKind (c : Byte) : Bool := 0x16 ≤ c.toNat

/-! ### Frames on the link -/

/-- The check word of the words before it: the ones' complement of their sum modulo 2^32 (R150). -/
def checkWord (words : List Word) : Word := ~~~ (words.foldl (· + ·) 0)

/-- Step 1 of R150: at least two words, the last being the check word of the others. -/
def frameCheckOk (words : List Word) : Bool :=
  2 ≤ words.length && words.getLast? == some (checkWord words.dropLast)

/-- A frame as words: header, payload, check word (11, 11.1), the reserved bits sent as 0. -/
def frameWords (kind : Byte) (f : Frame) : List Word :=
  let body := packWord [(24, kind.toNat), (16, f.tag.val), (0, f.length.toNat)] :: f.payload
  body ++ [checkWord body]

/-- The command of a request frame of a kind. -/
def requestOf (k : Kind) (p : Port) (f : Frame) : Instr :=
  match k with
  | .operate => .operate p f
  | .groupRead => .groupRead p f
  | .setRecovery => .setRecovery p f
  | .cancel => .cancel p f
  | .watch => .watch p f
  | .unwatch => .unwatch p f
  | .fetchEvents => .fetchEvents p f
  | .attnOn => .attnOn p f
  | .attnOff => .attnOff p f
  | .quiesce => .quiesce p f
  | .wake => .wake p f
  | .writeRegion => .writeRegion p f
  | .readRegion => .readRegion p f
  | .writeSettings => .writeSettings p f
  | .initCells => .initCells p f
  | .commit => .commit p f
  | .reopen => .reopen p f
  | .stay => .stay p f
  | .join => .join p f
  | .leave => .leave p f
  | .status => .status p f

/-- The header of a valid frame: its kind code, and the frame it opens with the words between it and the
check word (R171). -/
def readHeader (words : List Word) : Byte × Frame :=
  let header := words.headD 0
  (BitVec.ofNat 8 (bitsOf header 24 8),
   { tag := ⟨bitsOf header 16 3, Nat.mod_lt _ (by decide)⟩
     length := BitVec.ofNat 8 (bitsOf header 0 8)
     payload := words.tail.dropLast })

/-- The command that the words between two frame marks on port `p` are (R150 step 1, R171): a frame that fails
its check, an idle frame, a request of a known kind, or a frame of unknown kind. -/
def decodeFrame (p : Port) (words : List Word) : Instr :=
  if frameCheckOk words then
    let (code, f) := readHeader words
    if code = 0 then .idleFrame p f
    else
      match Kind.ofCode code with
      | some k => requestOf k p f
      | none => .badKind p code f
  else .frameCheck p words

/-- Step 2 of R150 for a request frame of a known kind: the length field equals the words received and the
length of the kind. -/
def lengthOk (k : Kind) (f : Frame) : Bool :=
  f.length.toNat == f.payload.length && f.payload.length == k.payloadWords

/-- Step 2 of R150 for an idle frame (R171): no payload, and a length field of 0. -/
def idleLengthOk (f : Frame) : Bool := f.length.toNat == 0 && f.payload.length == 0

/-- Step 2 of R150 for a frame of unknown kind: the length field equals the words received (R171). -/
def unknownLengthOk (f : Frame) : Bool := f.length.toNat == f.payload.length

/-! ### Field codes (11.2)

A code that names nothing is `Option.none`, in full: some of these types have a `none` of their own. -/

/-- The predicate a code names (OPERATE word 1, bits 19 to 16). -/
def Pred.ofCode : Nat → Option Pred
  | 0 => some .always
  | 1 => some .eq
  | 2 => some .ne
  | 3 => some .lt
  | 4 => some .le
  | 5 => some .gt
  | 6 => some .ge
  | 7 => some .ult
  | 8 => some .ule
  | 9 => some .ugt
  | 10 => some .uge
  | _ => Option.none

/-- The ownership condition a code names (OPERATE word 1, bits 21 to 20). -/
def OwnCond.ofCode : Nat → Option OwnCond
  | 0 => some .any
  | 1 => some .none
  | 2 => some .mine
  | 3 => some .notMine
  | _ => Option.none

/-- The update a code names (OPERATE word 1, bits 25 to 22). -/
def Update.ofCode : Nat → Option Update
  | 0 => some .none
  | 1 => some .set
  | 2 => some .add
  | 3 => some .sub
  | 4 => some .and
  | 5 => some .or
  | 6 => some .xor
  | 7 => some .max
  | 8 => some .min
  | _ => Option.none

/-- The stamp action a code names (OPERATE word 1, bits 27 to 26). -/
def StampAct.ofCode : Nat → Option StampAct
  | 0 => some .keep
  | 1 => some .stamp
  | 2 => some .unstamp
  | _ => Option.none

/-- The right a code names (region entry word 1, two bits a port). -/
def Right.ofCode : Nat → Option Right
  | 0 => some .none
  | 1 => some .read
  | 2 => some .update
  | _ => Option.none

/-- The loss policy a code names (region entry word 1, bits 10 to 9). -/
def LossPolicy.ofCode : Nat → Option LossPolicy
  | 0 => some .restore
  | 1 => some .release
  | 2 => some .hold
  | _ => Option.none

/-- The page policy a code names (WRITE_SETTINGS word 1, bits 9 to 8). -/
def PagePolicy.ofCode : Nat → Option PagePolicy
  | 0 => some .opened
  | 1 => some .closed
  | _ => Option.none

/-! ### Request payloads (11.2, R172) -/

/-- Payload word `n`, counted from 1 as 11.2 counts them. -/
def Frame.word (f : Frame) (n : Nat) : Word := f.payload.getD (n - 1) 0

/-- The cell of a cell request, and the base cell of an INIT_CELLS: word 1, bits 15 to 0. -/
def Frame.cell (f : Frame) : CellIx := bitsOf (f.word 1) 0 16

/-- Whether an OPERATE, by its codes as received, needs no more than READ (R18, R127). -/
def Frame.operateReadsOnly (f : Frame) : Bool :=
  bitsOf (f.word 1) 22 4 == 0 && bitsOf (f.word 1) 26 2 == 0

/-- The fields of an OPERATE; none where the field check refuses it (R172). -/
def Frame.operateFields (f : Frame) : Option OpFields :=
  match Pred.ofCode (bitsOf (f.word 1) 16 4), OwnCond.ofCode (bitsOf (f.word 1) 20 2),
      Update.ofCode (bitsOf (f.word 1) 22 4), StampAct.ofCode (bitsOf (f.word 1) 26 2) with
  | some q, some o, some u, some a =>
    some { pred := q, cmp := f.word 2, own := o, upd := u, arg := f.word 3, stamp := a,
           patience := bitsOf (f.word 4) 0 16 }
  | _, _, _, _ => none

/-- The recovery value a SET_RECOVERY carries, or absent (11.2, R172). -/
def Frame.recoveryField (f : Frame) : Option Word :=
  if bitsOf (f.word 1) 16 1 = 1 then some (f.word 2) else none

/-- The target tag of a CANCEL. -/
def Frame.targetTag (f : Frame) : Tag := ⟨bitsOf (f.word 1) 0 3, Nat.mod_lt _ (by decide)⟩

/-- The fields of a WATCH; none where the field check refuses it (R172). -/
def Frame.watchFields (f : Frame) : Option WatchFields :=
  let mode := if bitsOf (f.word 1) 20 1 = 1 then WatchMode.repeating else WatchMode.once
  let now := bitsOf (f.word 1) 21 1 == 1
  let code := bitsOf (f.word 1) 16 4
  if code = 11 then some { trigger := .change, mode := mode, reportNow := now }
  else
    match Pred.ofCode code with
    | some q => some { trigger := .pred q (f.word 2), mode := mode, reportNow := now }
    | none => none

/-- The id of an UNWATCH, the region number of a WRITE_REGION and the selector of a READ_REGION: word 1, bits
7 to 0. -/
def Frame.lowByte (f : Frame) : Nat := bitsOf (f.word 1) 0 8

/-- The region entry of a WRITE_REGION; none where the field check refuses it for its entry (R123, R172). -/
def Frame.regionFields (f : Frame) : Option RegionEntry :=
  let base := bitsOf (f.word 2) 0 16
  let length := bitsOf (f.word 3) 0 17
  match Right.ofCode (bitsOf (f.word 1) 16 2), Right.ofCode (bitsOf (f.word 1) 18 2),
      Right.ofCode (bitsOf (f.word 1) 20 2), Right.ofCode (bitsOf (f.word 1) 22 2),
      LossPolicy.ofCode (bitsOf (f.word 1) 9 2) with
  | some r0, some r1, some r2, some r3, some l =>
    if 1 ≤ length ∧ length ≤ 65536 ∧ base + length ≤ 65536 then
      some { valid := bitsOf (f.word 1) 8 1 == 1, base := base, length := length, rights := ⟨r0, r1, r2, r3⟩,
             policy := l, default := f.word 4 }
    else none
  | _, _, _, _, _ => none

/-- The settings of a WRITE_SETTINGS; none where the field check refuses it (R125, R172). -/
def Frame.settingsFields (f : Frame) : Option Settings :=
  let interval := bitsOf (f.word 1) 0 8
  match PagePolicy.ofCode (bitsOf (f.word 1) 8 2) with
  | some page =>
    if 2 ≤ interval ∧ interval ≤ 12 then
      some { interval := interval, page := page, mask := BitVec.ofNat 4 (bitsOf (f.word 1) 16 4) }
    else none
  | none => none

/-- The fields of an INIT_CELLS; none where the field check refuses it (R134, R172). -/
def Frame.initFields (f : Frame) : Option InitFields :=
  let base := bitsOf (f.word 1) 0 16
  let count := bitsOf (f.word 2) 0 17
  if 1 ≤ count ∧ count ≤ 65536 ∧ base + count ≤ 65536 then
    some { base := base, count := count, value := f.word 3,
           recovery := if bitsOf (f.word 1) 16 1 = 1 then some (f.word 4) else none }
  else none

/-- The generation of a COMMIT. -/
def Frame.generationField (f : Frame) : Count16 := BitVec.ofNat 16 (bitsOf (f.word 1) 0 16)

/-- The command a word spells by the opcode table's bits. The table gives no row any bits ("fields": []), so
no word spells a command. -/
def decodeTableWord (_nbits _w : Nat) : Option Instr := none

end Sys2Proof
end

