-- ==== Sys2Proof/Machine/State.lean ====
section
/-!
DEFINITION. The state of the RKA-464, block by block, as plain data, with the reasons a command can stop and
`State.reset`, the part right after device reset.
-/
namespace Sys2Proof.Machine

/-! ### Cells and stamps (chapter 1) -/

/-- A cell record (R1). The value and the owner exist in state LIVE alone, and so does a recovery value, which
may be absent there: the presence column of R1's table holds by construction. -/
inductive CellRec where
  | void
  | lost
  | live (value : Word) (owner : Option Port) (recovery : Option Word)
  deriving DecidableEq, Repr

/-- What the unlisted cells of a bank hold: VOID since device reset (R16), or LOST since a retention entry with
the bank outside the mask (R112). -/
inductive Blank where
  | void
  | lost
  deriving DecidableEq, Repr

/-- The Cell Store: the record of every unlisted cell, bank by bank, and the listed cells, whose indices rise
strictly and none of which holds what an unlisted cell of its bank holds. -/
structure CellStore where
  background : Four Blank
  listed : List (CellIx × CellRec)
  deriving DecidableEq, Repr

/-- The compare flags (R21). -/
structure Flags where
  c : Bool
  z : Bool
  n : Bool
  v : Bool
  deriving DecidableEq, Repr

/-! ### Park List, Watch Table, Event Queues (chapters 3 and 4) -/

/-- A parked operation (R42). Its chain position and park order are its places in the list. The deadline is a
moment of the model's clock in µs; absent for patience 65,535. -/
structure ParkEntry where
  port : Port
  tag : Tag
  cell : CellIx
  op : OpFields
  deadline : Option Nat
  lastValue : Word
  lastOwner : Option Port
  lastFlags : Flags
  deriving DecidableEq, Repr

/-- A watch (R63). The last result is absent for a CHANGE trigger. -/
structure Watch where
  id : Nat
  port : Port
  cell : CellIx
  trigger : Trigger
  mode : WatchMode
  last : Option Bool
  deriving DecidableEq, Repr

/-- Why a port is lost (R147). -/
inductive LossReason where
  | link
  | leave
  deriving DecidableEq, Repr

/-- Why a PORT_FAULT is raised (R78). -/
inductive FaultReason where
  | tagInUse
  | frameCheck
  | frameLength
  deriving DecidableEq, Repr

/-- An event with the fields of its kind (R78). -/
inductive Event where
  | watchFired (id : Nat) (cell : CellIx) (value : Word) (owner : Option Port)
  | cellLost (id : Nat) (cell : CellIx)
  | portJoined (p : Port)
  | portLost (p : Port) (reason : LossReason)
  | portCleared (p : Port) (restored released held : Nat)
  | running
  | reconfigured
  | retaining
  | awake
  | refreshOverrun
  | portFault (reason : FaultReason) (tag : Option Tag) (kind : Option Byte)
  deriving DecidableEq, Repr

/-- An event record: an event and its sequence number (R75, R78). -/
structure EventRecord where
  seq : Count16
  event : Event
  deriving DecidableEq, Repr

/-- A port's event queue, sequence counter and attention enable (R74, R75, R80). -/
structure EventPort where
  queue : List EventRecord
  seq : Count16
  attention : Bool
  deriving DecidableEq, Repr

/-! ### Bank controllers (chapter 5) -/

/-- What an access does (R84's kind and request contents). -/
inductive Work where
  | operate (op : OpFields)
  | groupRead
  | setRecovery (recovery : Option Word)
  | watch (w : WatchFields)
  | groupWrite (i : InitFields)
  | recovery (policy : LossPolicy) (default : Option Word)
  deriving DecidableEq, Repr

/-- A bank queue entry (R84). Its bank and row are those of its cell. The tag is absent for a recovery access. -/
structure Access where
  port : Port
  tag : Option Tag
  cell : CellIx
  work : Work
  bypass : Nat
  deriving DecidableEq, Repr

/-- The bank states (R83). The row of CLOSING is the row being closed. -/
inductive BankState where
  | idle
  | opening (row : Nat)
  | ready (row : Nat)
  | accessing (row : Nat)
  | closing (row : Nat)
  | refreshing
  | preserved
  | off
  deriving DecidableEq, Repr

/-- A bank controller (R83): its state, which gives its open row, its current access and its queue, oldest first. -/
structure BankCtl where
  state : BankState
  current : Option Access
  queue : List Access
  deriving DecidableEq, Repr

/-! ### Refresh Controller (chapter 6) -/

/-- The power states (R107). -/
inductive PowerState where
  | active
  | entering
  | retained
  | waking
  deriving DecidableEq, Repr

/-- The Refresh Controller (R101). `timer` is the µs left of the running interval, absent while the timer is
stopped; `placing` is the retention mask read when the placing of the storage in retention began (R111),
absent while no placing is in progress. -/
structure RefreshCtl where
  timer : Option Nat
  debt : Nat
  overrun : Bool
  overrunRaised : Bool
  power : PowerState
  votes : Four Bool
  heldWakes : List (Port × Tag)
  hold : Bool
  refreshing : Bool
  placing : Option (BitVec 4)
  deriving DecidableEq, Repr

/-! ### Region Table and Configuration Controller (chapters 7 and 8) -/

/-- The Region Table: sixteen entries in order of number, the settings record and the generation (R119, R121,
R122). -/
structure RegionTable where
  entries : List RegionEntry
  settings : Settings
  generation : Count16
  deriving DecidableEq, Repr

/-- The configuration states (R131). -/
inductive CfgState where
  | setup
  | committing
  | run
  | draining
  deriving DecidableEq, Repr

/-- An INIT_CELLS in flight (R131); `nextGroup` is the first cell of the group it writes next. -/
structure InitFlight where
  port : Port
  tag : Tag
  init : InitFields
  nextGroup : CellIx
  deriving DecidableEq, Repr

/-- The Configuration Controller (R131). -/
structure ConfigCtl where
  state : CfgState
  commits : Four (Option Count16)
  heldCommits : List (Port × Tag)
  reopenVotes : Four Bool
  heldReopens : List (Port × Tag)
  inits : List InitFlight
  deriving DecidableEq, Repr

/-! ### Host Port Units (chapters 9 and 11) -/

/-- The link states (R146). -/
inductive Link where
  | alive
  | dead
  deriving DecidableEq, Repr

/-- The port states (R146, R147). -/
inductive PortState where
  | down
  | linked
  | up
  | clearing
  deriving DecidableEq, Repr

/-- A tag table entry (R146). -/
inductive TagState where
  | free
  | outstanding
  deriving DecidableEq, Repr

/-- The statuses (11.3). -/
inductive Status where
  | ok
  | badKind
  | badField
  | notJoined
  | notRunning
  | notSetup
  | asleep
  | noRegion
  | denied
  | void
  | lost
  | stampFull
  | watchFull
  | stale
  | overlap
  | superseded
  | notFound
  deriving DecidableEq, Repr

/-- The outcomes of an OPERATE (R33). -/
inductive OpOutcome where
  | done
  | false
  | unparked
  | expired
  | cancelled
  | withdrawn
  deriving DecidableEq, Repr

/-- The fields of an OPERATE response with status OK (R33). -/
structure OpReport where
  outcome : OpOutcome
  old : Word
  new : Word
  owner : Option Port
  flags : Flags
  wrapped : Bool
  deriving DecidableEq, Repr

/-- One entry of a GROUP_READ response (R39): withheld, or the state with the value and owner of a LIVE cell. -/
inductive GroupEntry where
  | withheld
  | void
  | lost
  | live (value : Word) (owner : Option Port)
  deriving DecidableEq, Repr

/-- The fields of a STATUS response (R158). -/
structure StatusReport where
  config : CfgState
  generation : Count16
  power : PowerState
  overrun : Bool
  ports : Four PortState
  occupancy : Nat
  freeWatches : Nat
  stampCount : Nat
  eventCount : Nat
  deriving DecidableEq, Repr

/-- What a response carries beyond its tag: a refusal's status alone, or status OK with the fields of the
request's kind (11.3). -/
inductive RespBody where
  | refused (st : Status)
  | overlap (first second : Nat)
  | ok
  | operate (r : OpReport)
  | groupRead (cell : CellIx) (entries : List GroupEntry)
  | setRecovery (previous : Option Word)
  | watch (id : Nat) (value : Word) (owner : Option Port) (last : Option Bool)
  | events (records : List EventRecord) (remaining : Nat)
  | written (generation : Count16)
  | region (selector : Nat) (entry : RegionEntry) (generation : Count16)
  | settings (s : Settings) (generation : Count16)
  | inited (cells groups : Nat)
  | status (r : StatusReport)
  deriving DecidableEq, Repr

/-- A response (R171): the kind code it is sent with, the request's tag, and its contents. -/
structure Response where
  kind : Byte
  tag : Tag
  body : RespBody
  deriving DecidableEq, Repr

/-- A Host Port Unit (R146). The timers are in µs, absent while stopped. `admission` is the frame in the
admission stage with its kind code. `lastSent` is what the pin HTXn last carried: the words of the last frame
the part sent on the link since reset, absent before the first (11.4). -/
structure Hpu where
  link : Link
  port : PortState
  recvTimer : Option Nat
  sendTimer : Option Nat
  tags : Eight TagState
  admission : Option (Byte × Frame)
  sendList : List Response
  heldJoin : Option Tag
  lastSent : Option (List Word)
  deriving DecidableEq, Repr

/-! ### Teardown Unit (chapter 10) -/

/-- The phases of a teardown (R159). -/
inductive Phase where
  | awaiting
  | walking
  | recovering
  deriving DecidableEq, Repr

/-- An active teardown record (R159). -/
structure TeardownRec where
  reason : LossReason
  phase : Phase
  awaited : Four Bool
  passed : List CellIx
  current : Option CellIx
  restored : Nat
  released : Nat
  held : Nat
  deriving DecidableEq, Repr

/-! ### The part -/

/-- The state of the part, with the model's own fields last: `now`, the model's clock in µs (deadlines are
moments of it); `choices`, how many orders the manual leaves open have been taken (the argument of the free
values of `Config`); and `pending`, the commands waiting to be taken, first in, first out. -/
structure State where
  cells : CellStore
  stamps : Four (List CellIx)
  park : List ParkEntry
  watches : List Watch
  events : Four EventPort
  hpus : Four Hpu
  banks : Four BankCtl
  table : RegionTable
  config : ConfigCtl
  refresh : RefreshCtl
  teardown : Four (Option TeardownRec)
  resetHigh : Bool
  now : Nat
  choices : Nat
  pending : List Instr
  deriving DecidableEq, Repr

/-- Reasons the part stops. The manual names none: every happening leaves the part running, and what a host does
wrong is answered with a status or a PORT_FAULT record. So the type has no constructor (safe: nothing is cut
short by it). -/
inductive Fault where
  deriving DecidableEq, Repr

/-- Reasons a command has no meaning. -/
inductive Refusal where
  /-- Raised by `exec` alone, for a row of the opcode table that has no meaning yet; no arm raises it now. Safe:
  the run ends where the part would go on. -/
  | notModelled (mnemonic : String)
  deriving DecidableEq, Repr

/-! ### Device reset -/

/-- Region entries in the table (R119). -/
def regionCount : Nat := 16

/-- A region entry after device reset (R120). -/
def RegionEntry.reset : RegionEntry :=
  { valid := false, base := 0, length := 1, rights := Four.all Right.none, policy := .release, default := 0 }

/-- The settings record after device reset (R121). -/
def Settings.reset : Settings := { interval := 6, page := .opened, mask := 0xF }

/-- A port's HPU after device reset (R146). -/
def Hpu.reset : Hpu :=
  { link := .dead, port := .down, recvTimer := none, sendTimer := none, tags := Eight.all .free, admission := none,
    sendList := [], heldJoin := none, lastSent := none }

/-- The part right after device reset, RESETn just driven high: every item at the value its chapter states
(R16, R60, R73, R82, R100, R101, R120, R121, R131, R146, R159), the first refresh interval begun. The model's own fields
are 0 and no command waits. -/
def State.reset : State :=
  { cells := { background := Four.all .void, listed := [] }
    stamps := Four.all []
    park := []
    watches := []
    events := Four.all { queue := [], seq := 0, attention := false }
    hpus := Four.all Hpu.reset
    banks := Four.all { state := .idle, current := none, queue := [] }
    table := { entries := List.replicate regionCount RegionEntry.reset, settings := Settings.reset, generation := 0 }
    config :=
      { state := .setup, commits := Four.all none, heldCommits := [], reopenVotes := Four.all false, heldReopens := [],
        inits := [] }
    refresh :=
      { timer := some Settings.reset.interval, debt := 0, overrun := false, overrunRaised := false, power := .active,
        votes := Four.all false, heldWakes := [], hold := false, refreshing := false, placing := none }
    teardown := Four.all none
    resetHigh := true
    now := 0
    choices := 0
    pending := [] }

end Sys2Proof.Machine
end

