-- ==== Sys2Proof/Machine/Formats.lean ====
section
/-!
DEFINITION. The words of the frames the part sends (R171, R173): response payloads, event records, region entries
and the idle frame.
-/
namespace Sys2Proof.Machine

/-- The kind code a response to a request of a kind is sent with (R171). -/
def responseKind (k : Kind) : Byte := 0x80 + k.code

/-- The kind code of a response to a frame of unknown kind (R171). -/
def badKindResponse : Byte := 0xFF

/-- The code of a status (11.3). -/
def Status.code : Status → Nat
  | .ok => 0
  | .badKind => 1
  | .badField => 2
  | .notJoined => 3
  | .notRunning => 4
  | .notSetup => 5
  | .asleep => 6
  | .noRegion => 7
  | .denied => 8
  | .void => 9
  | .lost => 10
  | .stampFull => 11
  | .watchFull => 12
  | .stale => 13
  | .overlap => 14
  | .superseded => 15
  | .notFound => 16

/-- The code of an outcome (11.3). -/
def OpOutcome.code : OpOutcome → Nat
  | .done => 0
  | .false => 1
  | .unparked => 2
  | .expired => 3
  | .cancelled => 4
  | .withdrawn => 5

/-- The code of an owner field: the port, or 4 for NONE (11.3). -/
def ownerCode : Option Port → Nat
  | some p => p.val
  | none => 4

/-- The code of an absent owner (11.3). -/
def ownerAbsent : Nat := 7

/-- A Boolean as one bit. -/
def bit (b : Bool) : Nat := if b then 1 else 0

/-- The code of a right (region entry). -/
def rightCode : Right → Nat
  | .none => 0
  | .read => 1
  | .update => 2

/-- The code of a loss policy (region entry). -/
def policyCode : LossPolicy → Nat
  | .restore => 0
  | .release => 1
  | .hold => 2

/-- The code of a page policy (WRITE_SETTINGS). -/
def pageCode : PagePolicy → Nat
  | .opened => 0
  | .closed => 1

/-- The four words of a region entry (11.2). -/
def regionWords (number : Nat) (e : RegionEntry) : List Word :=
  [packWord [(0, number), (8, bit e.valid), (9, policyCode e.policy), (16, rightCode e.rights.zero),
     (18, rightCode e.rights.one), (20, rightCode e.rights.two), (22, rightCode e.rights.three)],
   packWord [(0, e.base)], packWord [(0, e.length)], e.default]

/-- The word of the settings record, coded as the WRITE_SETTINGS payload (11.2). -/
def settingsWord (x : Settings) : Word :=
  packWord [(0, x.interval), (8, pageCode x.page), (16, x.mask.toNat)]

/-- The two words of a GROUP_READ entry (11.3, R173). -/
def groupEntryWords : GroupEntry → List Word
  | .void => [packWord [(0, 0), (4, ownerCode none)], 0]
  | .live v o => [packWord [(0, 1), (4, ownerCode o)], v]
  | .lost => [packWord [(0, 2), (4, ownerCode none)], 0]
  | .withheld => [packWord [(0, 3), (4, ownerAbsent)], 0]

/-- The code of a PORT_FAULT reason (11.3). -/
def faultCode : FaultReason → Nat
  | .tagInUse => 1
  | .frameCheck => 2
  | .frameLength => 3

/-- The code of a loss reason (11.3). -/
def lossCode : LossReason → Nat
  | .link => 0
  | .leave => 1

/-- An event's kind code (11.3). -/
def Event.code : Event → Nat
  | .watchFired _ _ _ _ => 1
  | .cellLost _ _ => 2
  | .portJoined _ => 3
  | .portLost _ _ => 4
  | .portCleared _ _ _ _ => 5
  | .running => 6
  | .reconfigured => 7
  | .retaining => 8
  | .awake => 9
  | .refreshOverrun => 10
  | .portFault _ _ _ => 11

/-- The second word of an event record (11.3). -/
def Event.secondWord : Event → Word
  | .watchFired i c _ o => packWord [(0, i), (8, ownerCode o), (16, c)]
  | .cellLost i c => packWord [(0, i), (8, ownerAbsent), (16, c)]
  | .portJoined p => packWord [(0, p.val)]
  | .portLost p r => packWord [(0, p.val), (8, lossCode r)]
  | .portCleared p _ _ _ => packWord [(0, p.val)]
  | .portFault r t k =>
    packWord [(0, faultCode r), (8, bit t.isSome), (9, bit k.isSome), (16, (t.getD 0).val), (24, (k.getD 0).toNat)]
  | .running | .reconfigured | .retaining | .awake | .refreshOverrun => 0

/-- The third word of an event record (11.3). -/
def Event.thirdWord : Event → Word
  | .watchFired _ _ v _ => v
  | .portCleared _ r l h => packWord [(0, r), (8, l), (16, h)]
  | .cellLost _ _ | .portJoined _ | .portLost _ _ | .portFault _ _ _ => 0
  | .running | .reconfigured | .retaining | .awake | .refreshOverrun => 0

/-- The three words of an event record (11.3). -/
def recordWords (r : EventRecord) : List Word :=
  [packWord [(0, r.event.code), (16, r.seq.toNat)], r.event.secondWord, r.event.thirdWord]

/-- The code of a configuration state (STATUS response). -/
def CfgState.code : CfgState → Nat
  | .setup => 0
  | .committing => 1
  | .run => 2
  | .draining => 3

/-- The code of a power state (STATUS response). -/
def PowerState.code : PowerState → Nat
  | .active => 0
  | .entering => 1
  | .retained => 2
  | .waking => 3

/-- The code of a port state (STATUS response). -/
def PortState.code : PortState → Nat
  | .down => 0
  | .linked => 1
  | .up => 2
  | .clearing => 3

/-- The last two words of a STATUS response (11.3). -/
def statusWords (r : StatusReport) : List Word :=
  [packWord [(0, r.config.code), (4, r.power.code), (8, bit r.overrun), (16, r.ports.zero.code), (18, r.ports.one.code),
     (20, r.ports.two.code), (22, r.ports.three.code)],
   packWord [(0, r.occupancy), (8, r.freeWatches), (16, r.stampCount), (24, r.eventCount)]]

/-- The payload of a response: the status word and the fields of its kind (11.3, R173). -/
def RespBody.words : RespBody → List Word
  | .refused st => [packWord [(0, st.code)]]
  | .overlap a b => [packWord [(0, Status.overlap.code), (16, a), (20, b)]]
  | .ok => [0]
  | .operate r =>
    [packWord [(8, r.outcome.code), (16, bit r.flags.c), (17, bit r.flags.z), (18, bit r.flags.n), (19, bit r.flags.v),
       (20, bit r.wrapped), (24, ownerCode r.owner)], r.old, r.new]
  | .groupRead c es => 0 :: packWord [(0, c)] :: (es.map groupEntryWords).flatten
  | .setRecovery prev => [packWord [(8, bit prev.isSome)], prev.getD 0]
  | .watch i v o last =>
    [packWord [(8, i), (16, bit last.isSome), (17, bit (last.getD false)), (24, ownerCode o)], v]
  | .events rs remaining => packWord [(8, rs.length), (16, remaining)] :: (rs.map recordWords).flatten
  | .written g => [packWord [(16, g.toNat)]]
  | .region sel e g => packWord [(8, sel), (16, g.toNat)] :: regionWords sel e
  | .settings x g => [packWord [(8, 16), (16, g.toNat)], settingsWord x]
  | .inited cells groups => [0, packWord [(0, cells)], packWord [(0, groups)]]
  | .status r => packWord [(16, r.generation.toNat)] :: statusWords r

/-- A response as the words of its frame (R171). -/
def Response.words (r : Response) : List Word :=
  let payload := r.body.words
  frameWords r.kind { tag := r.tag, length := BitVec.ofNat 8 payload.length, payload := payload }

/-- The idle frame the part sends: header 00000000h and check word FFFFFFFFh (R171). -/
def idleFrameWords : List Word := frameWords 0 { tag := 0, length := 0, payload := [] }

end Sys2Proof.Machine
end

