-- ==== Sys2Proof/Machine/Flags.lean ====
section
/-!
DEFINITION. The compare flags (R21) and the eleven predicates on them (R22).
-/
namespace Sys2Proof.Machine

/-- The compare flags of a cell value and a compare operand, from the difference modulo 2^32 (R21). -/
def compareFlags (value cmp : Word) : Flags :=
  let diff := value - cmp
  { c := decide (value.toNat < cmp.toNat)
    z := diff == 0
    n := diff.msb
    v := (value.msb != cmp.msb) && (diff.msb != value.msb) }

/-- Whether a predicate holds on the flags (R22). -/
def predHolds (q : Pred) (f : Flags) : Bool :=
  match q with
  | .always => true
  | .eq => f.z
  | .ne => !f.z
  | .lt => f.n != f.v
  | .ge => f.n == f.v
  | .gt => !f.z && (f.n == f.v)
  | .le => f.z || (f.n != f.v)
  | .ult => f.c
  | .uge => !f.c
  | .ugt => !f.c && !f.z
  | .ule => f.c || f.z

end Sys2Proof.Machine
end

