-- ==== Sys2Proof/Machine/Operands.lean ====
section
/-!
DEFINITION. What an operation makes of its operands, free of the state it runs in: the addressing of cells (R4),
the guard (R22 to R24), the update with its wrapped indication (R25, R26), the stamp action on the owner (R27),
the creating OPERATE's form (R6), and the region that holds a cell with its rights (R119, R127).
-/
namespace Sys2Proof

/-- Whether a valid entry covers a cell. -/
def RegionEntry.covers (e : RegionEntry) (c : CellIx) : Bool :=
  e.valid && decide (e.base ≤ c) && decide (c < e.base + e.length)

/-- Whether a right permits what READ permits. -/
def Right.permitsRead : Right → Bool
  | .none => false
  | _ => true

/-- Whether a right permits what UPDATE permits. -/
def Right.permitsUpdate : Right → Bool
  | .update => true
  | _ => false

/-- Whether two entries share a cell, both valid (R141). -/
def RegionEntry.overlaps (a b : RegionEntry) : Bool :=
  a.valid && b.valid && decide (a.base < b.base + b.length) && decide (b.base < a.base + a.length)

/-! ### INIT_CELLS ranges (R135) -/

/-- The last cell of the range. -/
def InitFields.lastCell (i : InitFields) : CellIx := i.base + i.count - 1

/-- The cells of a group that lie in the range, in ascending order. -/
def InitFields.covered (i : InitFields) (group : CellIx) : List CellIx :=
  ((List.range 16).map (fun k => group + k)).filter (fun c => decide (i.base ≤ c) && decide (c < i.base + i.count))

/-- The number of group writes the range takes: one for each group it touches (R135). -/
def InitFields.groups (i : InitFields) : Nat := i.lastCell / 16 - i.base / 16 + 1

end Sys2Proof

namespace Sys2Proof.Machine

/-! ### Cell addressing (R4) -/

/-- The bank of a cell: its index divided by 16, modulo 4. -/
def bankOf (c : CellIx) : Bank := ⟨c / 16 % 4, Nat.mod_lt _ (by decide)⟩

/-- The row of a cell: its index divided by 64. -/
def rowOf (c : CellIx) : Nat := c / 64

/-- The column of a cell: its index modulo 16. -/
def columnOf (c : CellIx) : Nat := c % 16

/-- The first cell of a cell's group. -/
def groupBase (c : CellIx) : CellIx := c - c % 16

/-- The cell in a bank, row and column. -/
def cellAt (b : Bank) (row col : Nat) : CellIx := 64 * row + 16 * b.val + col

/-- The sixteen cells of a cell's group in the wrap order of R38: entry k is column (column + k) modulo 16. -/
def groupOrder (c : CellIx) : List CellIx :=
  (List.range 16).map (fun k => groupBase c + (columnOf c + k) % 16)

/-! ### Cell records -/

/-- The owner of a cell record; NONE in VOID and LOST (R1). -/
def CellRec.owner : CellRec → Option Port
  | .live _ o _ => o
  | _ => none

/-- Whether a record is LIVE. -/
def CellRec.isLive : CellRec → Bool
  | .live _ _ _ => true
  | _ => false

/-- What an unlisted cell holds, as a record. -/
def Blank.toRec : Blank → CellRec
  | .void => .void
  | .lost => .lost

/-! ### The guard (R20 steps 3 to 6) -/

/-- The ownership condition on an owner, against the requester (R23). -/
def ownHolds (o : OwnCond) (requester : Port) (owner : Option Port) : Bool :=
  match o with
  | .any => true
  | .none => owner == none
  | .mine => owner == some requester
  | .notMine => owner != some requester

/-- The precondition of a stamp action (R24). -/
def stampPre (a : StampAct) (requester : Port) (owner : Option Port) : Bool :=
  match a with
  | .keep => true
  | .stamp => owner == none || owner == some requester
  | .unstamp => owner == some requester

/-- The guard: predicate, ownership condition and stamp precondition together (R24). -/
def guardHolds (op : OpFields) (requester : Port) (value : Word) (owner : Option Port) : Bool :=
  predHolds op.pred (compareFlags value op.cmp) && ownHolds op.own requester owner && stampPre op.stamp requester owner

/-! ### The update and the stamp action -/

/-- The new value of an update (R25). -/
def applyUpdate (u : Update) (value arg : Word) : Word :=
  match u with
  | .none => value
  | .set => arg
  | .add => value + arg
  | .sub => value - arg
  | .and => value &&& arg
  | .or => value ||| arg
  | .xor => value ^^^ arg
  | .max => if value.toNat < arg.toNat then arg else value
  | .min => if arg.toNat < value.toNat then arg else value

/-- The wrapped indication of an update that was applied (R26). -/
def updateWraps (u : Update) (value arg : Word) : Bool :=
  match u with
  | .add => decide (4294967296 ≤ value.toNat + arg.toNat)
  | .sub => decide (value.toNat < arg.toNat)
  | _ => false

/-- The owner after a stamp action whose guard held (R27). -/
def ownerAfter (a : StampAct) (requester : Port) (owner : Option Port) : Option Port :=
  match a with
  | .keep => owner
  | .stamp => some requester
  | .unstamp => none

/-- Whether the STAMP_FULL test refuses a stamp action on an owner, given how many cells the requester's stamp list
holds (R28). -/
def stampFull (a : StampAct) (owner : Option Port) (listed : Nat) : Bool :=
  a == .stamp && owner == none && decide (Config.stampCapacity ≤ listed)

/-- A creating OPERATE: the one OPERATE carried out on a VOID or LOST cell (R6). -/
def isCreating (op : OpFields) : Bool :=
  op.pred == .always && op.own == .any && op.upd == .set && (op.stamp == .keep || op.stamp == .stamp)

/-- The status of a request refused for the state of its cell (R6). -/
def refusalOf : CellRec → Status
  | .lost => .lost
  | _ => .void

/-! ### Responses of an OPERATE (R33) -/

/-- The report of an operation that executed on a LIVE cell. -/
def doneReport (op : OpFields) (requester : Port) (value : Word) (owner : Option Port) : OpReport :=
  { outcome := .done, old := value, new := applyUpdate op.upd value op.arg, owner := ownerAfter op.stamp requester owner,
    flags := compareFlags value op.cmp, wrapped := updateWraps op.upd value op.arg }

/-- The report of an operation that ended without executing, from its last evaluation. -/
def unmetReport (o : OpOutcome) (value : Word) (owner : Option Port) (f : Flags) : OpReport :=
  { outcome := o, old := value, new := value, owner := owner, flags := f, wrapped := false }

/-- The report of a creating OPERATE on a VOID or LOST cell: old value 0, flags from 0 (R7). -/
def createdReport (op : OpFields) (requester : Port) : OpReport :=
  { outcome := .done, old := 0, new := op.arg, owner := ownerAfter op.stamp requester none,
    flags := compareFlags 0 op.cmp, wrapped := false }

/-! ### Regions (R119, R127) -/

/-- The region that holds a cell: the lowest-numbered valid entry that covers it (R119). -/
def RegionTable.regionOf (t : RegionTable) (c : CellIx) : Option RegionEntry := t.entries.find? (fun e => e.covers c)

/-- Whether a port may read a cell: it lies in a region that gives the port READ or UPDATE (R39, R129). -/
def RegionTable.readable (t : RegionTable) (p : Port) (c : CellIx) : Bool :=
  match t.regionOf c with
  | some e => (e.rights.get p).permitsRead
  | none => false

/-- The loss policy and the default recovery value the Teardown Unit's lookup returns for a cell (R130). -/
def RegionTable.lossLookup (t : RegionTable) (c : CellIx) : LossPolicy × Option Word :=
  match t.regionOf c with
  | some e => (e.policy, some e.default)
  | none => (.release, none)

/-- The lowest-numbered entry from a list of numbered entries that overlaps entry `i`. -/
def overlapPartner (i : Nat) (a : RegionEntry) (es : List (RegionEntry × Nat)) : Option Nat :=
  (es.find? (fun x => x.2 != i && a.overlaps x.1)).map (·.2)

/-- The two entry numbers of an OVERLAP answer: the lowest-numbered valid entry that overlaps another, and the
lowest-numbered one it overlaps; none when no two valid entries overlap (R141). -/
def RegionTable.overlapPair (t : RegionTable) : Option (Nat × Nat) :=
  t.entries.zipIdx.findSome? (fun x => (overlapPartner x.2 x.1 t.entries.zipIdx).map (fun j => (x.2, j)))

/-! ### Accesses -/

/-- The row an access addresses (R84). -/
def Access.row (a : Access) : Nat := rowOf a.cell

/-- Whether an access is a host access or a group write, which teardown removes and the drain waits for (R95,
R99). -/
def Access.isHost (a : Access) : Bool :=
  match a.work with
  | .recovery _ _ => false
  | _ => true

/-- Whether an access is a group write. -/
def Access.isGroupWrite (a : Access) : Bool :=
  match a.work with
  | .groupWrite _ => true
  | _ => false

/-- The record a group write gives a covered cell (R136). -/
def initRec (i : InitFields) : CellRec := .live i.value none i.recovery

end Sys2Proof.Machine
end

