-- ==== Sys2Proof/Machine/Ops.lean ====
section
/-!
DEFINITION. The named operations on the blocks' state: cells with their stamps, tags and responses, events, bank
queues and the pick, and the refresh hold. Every block's behaviour is written over these.
-/
namespace Sys2Proof.Machine

/-! ### Items that are taken in a free order -/

/-- Places an item by a key. -/
def insertByKey {α : Type} (key : α → Nat) (x : α) : List α → List α
  | [] => [x]
  | y :: rest => if key x ≤ key y then x :: y :: rest else y :: insertByKey key x rest

/-- Items in rising order of a key. Under the free key (`Config.orderKey`) any order is possible. -/
def inKeyOrder {α : Type} (key : α → Nat) (items : List α) : List α := items.foldr (insertByKey key) []

/-! ### Reading and replacing one port's or one bank's part of the state -/

/-- A port's HPU. -/
def State.hpu (s : State) (p : Port) : Hpu := s.hpus.get p

/-- Changes a port's HPU. -/
def State.modHpu (p : Port) (f : Hpu → Hpu) (s : State) : State := { s with hpus := s.hpus.set p (f (s.hpus.get p)) }

/-- A bank's controller. -/
def State.bank (s : State) (b : Bank) : BankCtl := s.banks.get b

/-- Changes a bank's controller. -/
def State.modBank (b : Bank) (f : BankCtl → BankCtl) (s : State) : State :=
  { s with banks := s.banks.set b (f (s.banks.get b)) }

/-- A port's event queue with its counter and enable. -/
def State.eventPort (s : State) (p : Port) : EventPort := s.events.get p

/-- Changes a port's event queue, counter and enable. -/
def State.modEvents (p : Port) (f : EventPort → EventPort) (s : State) : State :=
  { s with events := s.events.set p (f (s.events.get p)) }

/-- Changes the Refresh Controller. -/
def State.modRefresh (f : RefreshCtl → RefreshCtl) (s : State) : State := { s with refresh := f s.refresh }

/-- Changes the Configuration Controller. -/
def State.modConfig (f : ConfigCtl → ConfigCtl) (s : State) : State := { s with config := f s.config }

/-- Changes a port's active teardown record; an idle record stays idle. -/
def State.modTeardown (p : Port) (f : TeardownRec → TeardownRec) (s : State) : State :=
  { s with teardown := s.teardown.set p ((s.teardown.get p).map f) }

/-- Whether a port is UP (R147). -/
def State.isUp (s : State) (p : Port) : Bool := (s.hpu p).port == .up

/-- Whether a port is in CLEARING. -/
def State.isClearing (s : State) (p : Port) : Bool := (s.hpu p).port == .clearing

/-- Whether a port's link is ALIVE. -/
def State.isAlive (s : State) (p : Port) : Bool := (s.hpu p).link == .alive

/-- The ATN line of a port: asserted exactly when the port is UP, its attention enable is on and its event queue is
not empty (R81). -/
def State.atn (s : State) (p : Port) : Bool :=
  s.isUp p && (s.eventPort p).attention && !(s.eventPort p).queue.isEmpty

/-! ### The Cell Store -/

/-- The record listed for a cell, if one is. -/
def findCell : List (CellIx × CellRec) → CellIx → Option CellRec
  | [], _ => none
  | x :: rest, c => if x.1 = c then some x.2 else findCell rest c

/-- Lists a record for a cell, in rising order of index, in place of the one listed before. -/
def insertCell (c : CellIx) (r : CellRec) : List (CellIx × CellRec) → List (CellIx × CellRec)
  | [] => [(c, r)]
  | x :: rest =>
    if c < x.1 then (c, r) :: x :: rest
    else if c = x.1 then (c, r) :: rest
    else x :: insertCell c r rest

/-- What an unlisted cell holds: its bank's background (R16, R112). -/
def CellStore.blank (m : CellStore) (c : CellIx) : CellRec := (m.background.get (bankOf c)).toRec

/-- The record of a cell. -/
def CellStore.read (m : CellStore) (c : CellIx) : CellRec := (findCell m.listed c).getD (m.blank c)

/-- Writes the record of a cell as one whole (R1), keeping the canonical form. -/
def CellStore.write (m : CellStore) (c : CellIx) (r : CellRec) : CellStore :=
  if r = m.blank c then { m with listed := m.listed.filter (fun x => x.1 != c) }
  else { m with listed := insertCell c r m.listed }

/-- Makes every cell of the banks outside the mask LOST (R112 step 1). -/
def CellStore.loseOutside (m : CellStore) (mask : BitVec 4) : CellStore :=
  { background :=
      ⟨if mask.getLsbD 0 then m.background.zero else .lost, if mask.getLsbD 1 then m.background.one else .lost,
       if mask.getLsbD 2 then m.background.two else .lost, if mask.getLsbD 3 then m.background.three else .lost⟩
    listed := m.listed.filter (fun x => mask.getLsbD (bankOf x.1).val) }

/-- Whether list keys rise strictly. -/
def risingKeys : List (CellIx × CellRec) → Bool
  | [] => true
  | [_] => true
  | x :: y :: rest => decide (x.1 < y.1) && risingKeys (y :: rest)

/-- The canonical form of the Cell Store: indices strictly rising and below 65,536, and no listed cell holding what
an unlisted one of its bank holds. -/
def CellStore.wf (m : CellStore) : Bool :=
  risingKeys m.listed && m.listed.all (fun x => decide (x.1 < Config.cellCount) && decide (x.2 ≠ m.blank x.1))

/-- The record of a cell in the part. -/
def State.readCell (s : State) (c : CellIx) : CellRec := s.cells.read c

/-- Removes a cell from a port's stamp list, the others keeping their order (R12), and from the cells the walk of
that port has passed (R163). -/
def State.unlist (p : Port) (c : CellIx) (s : State) : State :=
  { s with
    stamps := s.stamps.set p ((s.stamps.get p).filter (fun x => x != c))
    teardown := s.teardown.set p ((s.teardown.get p).map (fun r => { r with passed := r.passed.filter (fun x => x != c) })) }

/-- Appends a cell at the end of a port's stamp list (R11). -/
def State.enlist (p : Port) (c : CellIx) (s : State) : State :=
  { s with stamps := s.stamps.set p (s.stamps.get p ++ [c]) }

/-- Brings the stamp lists after a change of a cell's owner: nothing when the owner stays, otherwise the cell
leaves the old owner's list and joins the end of the new owner's (R11, R12). -/
def State.moveStamp (c : CellIx) (before after : Option Port) (s : State) : State :=
  if before = after then s
  else
    let s := match before with
      | some p => s.unlist p c
      | none => s
    match after with
    | some p => s.enlist p c
    | none => s

/-- Writes a cell record, its owner and the stamp lists changing together (R10). Every change an access makes to a
cell is this operation. -/
def State.putCell (c : CellIx) (r : CellRec) (s : State) : State :=
  let s' := s.moveStamp c (s.readCell c).owner r.owner
  { s' with cells := s'.cells.write c r }

/-! ### Tags and responses (R152, R154) -/

/-- The state of a port's tag. -/
def State.tagState (s : State) (p : Port) (t : Tag) : TagState := (s.hpu p).tags.get t

/-- Sets a port's tag FREE or OUTSTANDING. -/
def State.setTag (p : Port) (t : Tag) (v : TagState) (s : State) : State :=
  s.modHpu p (fun h => { h with tags := h.tags.set t v })

/-- Whether no tag of a port is outstanding. -/
def Hpu.noTagOut (h : Hpu) : Bool := allTags.all (fun t => h.tags.get t == .free)

/-- Hands a response to a port's HPU: it joins the send list, or is discarded when the link is DEAD (R154). -/
def State.reply (p : Port) (kind : Byte) (t : Tag) (body : RespBody) (s : State) : State :=
  s.modHpu p (fun h =>
    if h.link = .alive then { h with sendList := h.sendList ++ [{ kind := kind, tag := t, body := body }] } else h)

/-- Hands the response of an access or of a parked operation: it is discarded when the requester's port is no longer
UP, its teardown having started since the request was admitted (R34, R154). -/
def State.replyUp (p : Port) (kind : Byte) (t : Tag) (body : RespBody) (s : State) : State :=
  if s.isUp p then s.reply p kind t body else s

/-- Answers held requests of a kind in the order held. -/
def State.replyHeld (kind : Byte) (body : RespBody) (held : List (Port × Tag)) (s : State) : State :=
  held.foldl (fun s x => s.reply x.1 kind x.2 body) s

/-! ### Events (R74 to R77) -/

/-- The event queue takes an event of an UP port: it gives it the counter's number and advances the counter, and the
record joins the queue unless the queue holds 16 (R75, R76). -/
def EventPort.take (e : Event) (q : EventPort) : EventPort :=
  { q with
    queue := if q.queue.length < Config.eventCapacity then q.queue ++ [{ seq := q.seq, event := e }] else q.queue
    seq := q.seq + 1 }

/-- Hands an event to a port's event queue; it is discarded when the port is not UP (R77). -/
def State.raise (p : Port) (e : Event) (s : State) : State :=
  if s.isUp p then s.modEvents p (fun q => q.take e) else s

/-- Raises an event for every UP port (4.5). -/
def State.raiseAll (e : Event) (s : State) : State := allFour.foldl (fun s p => s.raise p e) s

/-- Raises an event for every UP port other than one (4.5). -/
def State.raiseOthers (p : Port) (e : Event) (s : State) : State :=
  (allFour.filter (fun q => q != p)).foldl (fun s q => s.raise q e) s

/-! ### Bank queues and the pick (R83 to R91) -/

/-- Takes the oldest entry that addresses a row out of a queue, raising the bypass count of every older one (R87
step 1). -/
def splitHit (row : Nat) : List Access → Option (Access × List Access)
  | [] => none
  | a :: rest =>
    if a.row = row then some (a, rest)
    else (splitHit row rest).map (fun x => (x.1, { a with bypass := a.bypass + 1 } :: x.2))

/-- The pick rule: the picked entry and the queue left (R87). -/
def chooseAccess (st : BankState) : List Access → Option (Access × List Access)
  | [] => none
  | a :: rest =>
    match st with
    | .ready row =>
      if a.bypass < Config.bypassCap then some ((splitHit row (a :: rest)).getD (a, rest)) else some (a, rest)
    | _ => some (a, rest)

/-- The bank state that follows a pick (R89). -/
def stateForPick (st : BankState) (a : Access) : BankState :=
  match st with
  | .ready row => if a.row = row then .accessing row else .closing row
  | .idle => .opening a.row
  | other => other

/-- Whether a bank is READY or IDLE with no current access. -/
def BankCtl.free (k : BankCtl) : Bool :=
  k.current.isNone &&
    match k.state with
    | .idle => true
    | .ready _ => true
    | _ => false

/-- The pick of a bank with no hold (R87, R89): nothing when the bank is not free or its queue is empty. -/
def BankCtl.pick (k : BankCtl) : BankCtl :=
  if k.free then
    match chooseAccess k.state k.queue with
    | some (a, rest) => { state := stateForPick k.state a, current := some a, queue := rest }
    | none => k
  else k

/-- Runs the pick rule at a bank, unless the hold is placed (R87, R96). -/
def State.pickBank (b : Bank) (s : State) : State := if s.refresh.hold then s else s.modBank b BankCtl.pick

/-- An access joins the end of the queue of its cell's bank with bypass count 0; a free bank picks at once (R85).
DESIGN CHOICE (notes/assumptions/36.md): a request's entry joins in the command that admits it, and so always before the
removal of a teardown start that comes later; R95 lets it also join after the removal, and it then has no effect. -/
def State.enqueue (a : Access) (s : State) : State :=
  (s.modBank (bankOf a.cell) (fun k => { k with queue := k.queue ++ [{ a with bypass := 0 }] })).pickBank (bankOf a.cell)

/-- A bank after its access has ended, before the pick of R91: READY with its row open and no current access; under
the hold it closes its row (R96), and with an empty queue it follows the page policy (R91). -/
def BankCtl.afterAccess (hold : Bool) (page : PagePolicy) (k : BankCtl) : BankCtl :=
  match k.state with
  | .accessing row =>
    if hold || (k.queue.isEmpty && page == .closed) then { k with state := .closing row, current := none }
    else { k with state := .ready row, current := none }
  | _ => k

/-- The end of an access at its bank (R90 step 4, R91, R96). -/
def State.endAtBank (b : Bank) (s : State) : State :=
  (s.modBank b (BankCtl.afterAccess s.refresh.hold s.table.settings.page)).pickBank b

/-- A bank's queue and current access hold no host access or group write (R99). -/
def BankCtl.noHostAccess (k : BankCtl) : Bool :=
  k.queue.all (fun a => !a.isHost) && (k.current.all (fun a => !a.isHost))

/-- No bank holds a host access or group write, queued or current (R99). -/
def State.noHostAccess (s : State) : Bool := s.banks.toList.all BankCtl.noHostAccess

/-- Removes a port's host accesses and group writes from a bank's queue (R95). -/
def BankCtl.dropPort (p : Port) (k : BankCtl) : BankCtl :=
  { k with queue := k.queue.filter (fun a => !(a.isHost && a.port == p)) }

/-! ### The refresh hold (R96, R97, R103, R105, R111) -/

/-- What the placing of the hold does to a bank: a READY bank begins to close its row (R96). -/
def BankCtl.holdPlaced (k : BankCtl) : BankCtl :=
  match k.state with
  | .ready row => { k with state := .closing row }
  | _ => k

/-- A bank closed for the hold: IDLE with no current access (R96). -/
def BankCtl.closed (k : BankCtl) : Bool := k.state == .idle && k.current.isNone

/-- Every bank is closed under the hold, and no refresh is in progress. -/
def State.heldClosed (s : State) : Bool :=
  s.refresh.hold && s.banks.toList.all BankCtl.closed && !s.refresh.refreshing

/-- All four banks go REFRESHING together, and the refresh in progress is set (R105). -/
def State.beginRefresh (s : State) : State :=
  { s with
    banks := s.banks.map (fun k => { k with state := .refreshing })
    refresh := { s.refresh with refreshing := true } }

/-- A refresh begins when the hold is placed and every bank is closed under it, in ACTIVE (R97, R105). -/
def State.testRefreshStart (s : State) : State :=
  if s.heldClosed && s.refresh.power == .active then s.beginRefresh else s

/-- The placing of the storage in retention begins when every bank is closed under the hold and no refresh is in
progress, in ENTERING; it reads the retention mask (R111). -/
def State.testPlacingStart (s : State) : State :=
  if s.heldClosed && s.refresh.power == .entering && s.refresh.placing.isNone then
    s.modRefresh (fun r => { r with placing := some s.table.settings.mask })
  else s

/-- What the Refresh Controller begins once the banks it holds are closed: a refresh in ACTIVE, the placing of the
storage in ENTERING. -/
def State.testHeld (s : State) : State := s.testRefreshStart.testPlacingStart

/-- The Refresh Controller places the hold on the four bank controllers (R96). -/
def State.placeHold (s : State) : State :=
  State.testHeld
    { s with
      banks := s.banks.map BankCtl.holdPlaced
      refresh := { s.refresh with hold := true } }

/-- A bank goes IDLE with no open row. -/
def BankCtl.toIdle (k : BankCtl) : BankCtl := { k with state := .idle }

/-- The Refresh Controller lifts the hold: every bank goes IDLE, and each with a non-empty queue picks (R97, R98). -/
def State.liftHold (s : State) : State :=
  { s with
    banks := s.banks.map (fun k => k.toIdle.pick)
    refresh := { s.refresh with hold := false } }

/-- All four bank queues are empty. -/
def State.queuesEmpty (s : State) : Bool := s.banks.toList.all (fun k => k.queue.isEmpty)

/-- The conditions of an opportunistic refresh (R103). -/
def State.opportunityDue (s : State) : Bool :=
  s.refresh.power == .active && decide (1 ≤ s.refresh.debt) && s.queuesEmpty &&
    s.banks.toList.all (fun k => k.current.isNone) && !s.refresh.hold

/-- The Refresh Controller's test for an opportunistic refresh (R103). -/
def State.testOpportunity (s : State) : State := if s.opportunityDue then s.placeHold else s

end Sys2Proof.Machine
end

