-- ==== Sys2Proof/Machine/Admission.lean ====
section
/-!
DEFINITION. The reception of frames (R148, R150) and admission (R151): the checks in their order, the tag, the quiesce
vote, and the handing of an admitted request to the block that owns it.
-/
namespace Sys2Proof.Machine

/-- Does a command's work while RESETn is high. While it is low nothing is taken: every block stays in its reset state
and frames received are not taken (R174). -/
def whileReleased (s : State) (work : State → State) : Host.Outcome State Fault Refusal :=
  .next (if s.resetHigh then work s else s)

/-! ### Valid frames on the link -/

/-- What a valid frame does to the link and the port: the receive timer goes back to zero; on a DEAD link it makes the
link ALIVE, starts both timers, and a port in DOWN goes LINKED (R148). -/
def Hpu.validFrame (h : Hpu) : Hpu :=
  match h.link with
  | .alive => { h with recvTimer := some 0 }
  | .dead =>
    { h with
      link := .alive
      recvTimer := some 0
      sendTimer := some 0
      port := if h.port = .down then .linked else h.port }

/-- A valid frame is received on a port. -/
def State.receiveValid (p : Port) (s : State) : State := s.modHpu p Hpu.validFrame

/-- Raises PORT_FAULT for the port of a frame (R78, R150, R152). -/
def State.portFault (p : Port) (reason : FaultReason) (t : Option Tag) (kind : Option Byte) (s : State) : State :=
  s.raise p (.portFault reason t kind)

/-! ### The checks of admission (R151) -/

/-- Check 3, the port state, by kind (R153). -/
def portCheck (k : Kind) (st : PortState) : Option Status :=
  match st with
  | .up => none
  | .linked => if k = .join ∨ k = .status then none else some .notJoined
  | .clearing => if k = .join ∨ k = .status then none else some .notJoined
  | .down => some .notJoined

/-- Check 4, the power state, by kind (R107). -/
def powerCheck (k : Kind) (st : PowerState) : Option Status :=
  match st with
  | .active => none
  | .entering | .retained | .waking =>
    if k = .wake ∨ k = .status ∨ k = .fetchEvents then none else some .asleep

/-- Check 5, the configuration state, by kind (R133). -/
def configCheck (k : Kind) (st : CfgState) : Option Status :=
  match k with
  | .operate | .groupRead | .setRecovery | .watch => if st = .run then none else some .notRunning
  | .writeRegion | .writeSettings | .initCells | .commit => if st = .setup then none else some .notSetup
  | .reopen => if st = .run ∨ st = .draining then none else some .notRunning
  | .stay | .quiesce => if st = .run then none else some .notRunning
  | .readRegion | .cancel | .unwatch | .wake | .fetchEvents | .attnOn | .attnOff | .status | .join | .leave => none

/-- The access check of a cell request against the right it needs (R127, R128). -/
def accessCheck (t : RegionTable) (p : Port) (c : CellIx) (permits : Right → Bool) : Option Status :=
  match t.regionOf c with
  | none => some .noRegion
  | some e => if permits (e.rights.get p) then none else some .denied

/-- Check 6, region and rights, for cell requests (R18, R127). -/
def rightsCheck (k : Kind) (p : Port) (f : Frame) (t : RegionTable) : Option Status :=
  match k with
  | .operate =>
    accessCheck t p f.cell (if f.operateReadsOnly then Right.permitsRead else Right.permitsUpdate)
  | .groupRead | .watch => accessCheck t p f.cell Right.permitsRead
  | .setRecovery => accessCheck t p f.cell Right.permitsUpdate
  | .cancel | .unwatch | .fetchEvents | .attnOn | .attnOff | .quiesce | .wake | .writeRegion | .readRegion => none
  | .writeSettings | .initCells | .commit | .reopen | .stay | .join | .leave | .status => none

/-- Whether the fields of a request take values its kind defines (R172). -/
def fieldsOk (k : Kind) (f : Frame) : Bool :=
  match k with
  | .operate => f.operateFields.isSome
  | .watch => f.watchFields.isSome
  | .unwatch => decide (f.lowByte < Config.watchCapacity)
  | .readRegion => decide (f.lowByte ≤ regionCount)
  | .writeRegion => decide (f.lowByte < regionCount) && f.regionFields.isSome
  | .writeSettings => f.settingsFields.isSome
  | .initCells => f.initFields.isSome
  | .groupRead | .setRecovery | .cancel | .fetchEvents | .attnOn | .attnOff | .quiesce | .wake => true
  | .commit | .reopen | .stay | .join | .leave | .status => true

/-- Check 7, the fields (R172). -/
def fieldCheck (k : Kind) (f : Frame) : Option Status := if fieldsOk k f then none else some .badField

/-- The status of the first of checks 3 to 7 that fails, if one fails (R151). -/
def State.refusal (s : State) (k : Kind) (p : Port) (f : Frame) : Option Status :=
  portCheck k (s.hpu p).port <|> powerCheck k s.refresh.power <|> configCheck k s.config.state <|>
    rightsCheck k p f s.table <|> fieldCheck k f

/-- Whether the admission of a kind leaves the requester's quiesce vote (R109). -/
def keepsVote (k : Kind) : Bool := k == .quiesce || k == .status || k == .fetchEvents

/-! ### Admission -/

/-- Puts a frame in the admission stage (R146). -/
def State.stage (p : Port) (code : Byte) (f : Frame) (s : State) : State :=
  s.modHpu p (fun h => { h with admission := some (code, f) })

/-- Empties the admission stage: the admission of one frame is complete before the next is begun (R151). -/
def State.unstage (p : Port) (s : State) : State := s.modHpu p (fun h => { h with admission := none })

/-- A request passes the tag check: its tag is OUTSTANDING at once, and its port's quiesce vote is removed unless its
kind keeps it (R151, R109). -/
def State.passTag (p : Port) (t : Tag) (keepVote : Bool) (s : State) : State :=
  let s := s.setTag p t .outstanding
  if keepVote then s else s.modRefresh (fun r => { r with votes := r.votes.set p false })

/-- Admission of the frame in a port's stage (R151): a tag that is OUTSTANDING discards it with PORT_FAULT TAG_IN_USE
(R152); otherwise its first failing check refuses it, with its tag and the status alone; otherwise it is
handed on. -/
def State.admitStaged (p : Port) (keepVote : Bool) (refusal : Option Status) (answerKind : Byte) (serve : State → State)
    (s : State) : State :=
  match (s.hpu p).admission with
  | none => s
  | some (code, f) =>
    if s.tagState p f.tag = .outstanding then (s.unstage p).portFault p .tagInUse (some f.tag) (some code)
    else
      let s := (s.passTag p f.tag keepVote).unstage p
      match refusal with
      | some st => s.reply p answerKind f.tag (.refused st)
      | none => serve s

/-- A request frame of a known kind is received: a frame whose length is wrong is valid but discarded, with PORT_FAULT
FRAME_LENGTH (R150 step 2); any other goes to admission. -/
def State.receiveRequest (k : Kind) (p : Port) (f : Frame) (serve : State → State) (s : State) : State :=
  let s := s.receiveValid p
  if lengthOk k f then
    (s.stage p k.code f).admitStaged p (keepsVote k) (s.refusal k p f) (responseKind k) serve
  else s.portFault p .frameLength (some f.tag) (some k.code)

/-- The response to a request of a kind. -/
def responseTo (k : Kind) (f : Frame) (body : RespBody) : Response :=
  { kind := responseKind k, tag := f.tag, body := body }

/-- Answers a request of a kind. -/
def State.answer (k : Kind) (p : Port) (f : Frame) (body : RespBody) (s : State) : State :=
  s.reply p (responseKind k) f.tag body

/-- A request frame of a kind as its own command, while RESETn is high. -/
def request (k : Kind) (p : Port) (f : Frame) (serve : State → State) (s : State) : Host.Outcome State Fault Refusal :=
  whileReleased s (fun s => s.receiveRequest k p f serve)

end Sys2Proof.Machine
end

