-- ==== Sys2Proof/Machine/Park.lean ====
section
/-!
DEFINITION. The Park List and the Operation Engine's work on a cell: ending and renewing parked entries, parking
(R43, R44), one evaluation in a cascade pass (R48, R49), and the cascade (R47, R50, R51) with the expiries after its
passes (R53).
-/
namespace Sys2Proof.Machine

/-- Whether an entry is the one of a port and a tag. -/
def ParkEntry.isOf (p : Port) (t : Tag) (e : ParkEntry) : Bool := e.port == p && e.tag == t

/-- The parked entry of a port and a tag. -/
def State.parkedOf (s : State) (p : Port) (t : Tag) : Option ParkEntry := s.park.find? (ParkEntry.isOf p t)

/-- Removes the entry of a port and a tag; the others close up in their order (R45). -/
def State.unpark (p : Port) (t : Tag) (s : State) : State :=
  { s with park := s.park.filter (fun e => !(e.isOf p t)) }

/-- The chain of a cell: its entries in the order they parked (R45). -/
def State.chain (s : State) (c : CellIx) : List ParkEntry := s.park.filter (fun e => e.cell == c)

/-- Hands a parked operation's response to its port (R51, R58). -/
def State.answerParked (e : ParkEntry) (body : RespBody) (s : State) : State :=
  s.replyUp e.port (responseKind .operate) e.tag body

/-- Ends a parked entry without executing it: it leaves the list, and is answered with its last evaluation (R52,
R55, R59). -/
def State.endParked (e : ParkEntry) (o : OpOutcome) (s : State) : State :=
  (s.unpark e.port e.tag).answerParked e (.operate (unmetReport o e.lastValue e.lastOwner e.lastFlags))

/-- The deadline of an operation that parks now: its patience in ms after the moment, none for 65,535 (R43 step 4). -/
def deadlineOf (now patience : Nat) : Option Nat :=
  if patience = Config.unlimitedPatience then none else some (now + 1000 * patience)

/-- Parks an operation at the end of its cell's chain and of the park order (R43). -/
def State.parkNow (p : Port) (t : Tag) (c : CellIx) (op : OpFields) (v : Word) (o : Option Port) (s : State) : State :=
  { s with
    park := s.park ++
      [{ port := p, tag := t, cell := c, op := op, deadline := deadlineOf s.now op.patience, lastValue := v,
         lastOwner := o, lastFlags := compareFlags v op.cmp }] }

/-- Renews the last evaluation of the entry of a port and a tag (R48). -/
def State.renew (p : Port) (t : Tag) (v : Word) (o : Option Port) (s : State) : State :=
  { s with
    park := s.park.map (fun e =>
      if e.isOf p t then { e with lastValue := v, lastOwner := o, lastFlags := compareFlags v e.op.cmp } else e) }

/-- How many cells a port owns: the length of its stamp list (R10). -/
def State.stampCount (s : State) (p : Port) : Nat := (s.stamps.get p).length

/-- Whether an operation on a LIVE cell changes it: its value or its owner (R29). -/
def opChanges (op : OpFields) (requester : Port) (value : Word) (owner : Option Port) : Bool :=
  applyUpdate op.upd value op.arg != value || ownerAfter op.stamp requester owner != owner

/-- The record an executing operation leaves: value and owner written together, the recovery value kept (R25,
R27). -/
def opRecord (op : OpFields) (requester : Port) (value : Word) (owner : Option Port) (rec : Option Word) : CellRec :=
  .live (applyUpdate op.upd value op.arg) (ownerAfter op.stamp requester owner) rec

/-- What an evaluation, a pass, or an access so far leaves: the state, the responses made for the end of the access, in the
order made (R34, R51), and whether the cell has changed since the last pass began (R50). -/
structure Evaluated where
  state : State
  answers : List (Port × Response)
  changed : Bool

/-- The response of an OPERATE, for its port. -/
def operateAnswer (p : Port) (t : Tag) (body : RespBody) : Port × Response :=
  (p, { kind := responseKind .operate, tag := t, body := body })

/-- Hands responses that an access has made, in order, at its end (R34, R51, R90 step 1). -/
def State.handAll (answers : List (Port × Response)) (s : State) : State :=
  answers.foldl (fun s x => s.replyUp x.1 x.2.kind x.2.tag x.2.body) s

/-- One evaluation of a parked entry in a cascade pass: false leaves it with its last evaluation renewed; true ends it,
executed or refused STAMP_FULL, its response waiting for the end of the access (R48, R49, R51). -/
def State.evalParked (e : ParkEntry) (s : State) : Evaluated :=
  match s.readCell e.cell with
  | .live v o r =>
    if guardHolds e.op e.port v o then
      if stampFull e.op.stamp o (s.stampCount e.port) then
        { state := s.unpark e.port e.tag, answers := [operateAnswer e.port e.tag (.refused .stampFull)], changed := false }
      else
        { state := (s.unpark e.port e.tag).putCell e.cell (opRecord e.op e.port v o r)
          answers := [operateAnswer e.port e.tag (.operate (doneReport e.op e.port v o))]
          changed := opChanges e.op e.port v o }
    else { state := s.renew e.port e.tag v o, answers := [], changed := false }
  | _ => { state := s, answers := [], changed := false }

/-- One pass of the cascade over a chain, from the oldest entry to the newest (R48, R50). -/
def cascadePass : List ParkEntry → State → Evaluated
  | [], s => { state := s, answers := [], changed := false }
  | e :: rest, s =>
    let first := s.evalParked e
    let others := cascadePass rest first.state
    { others with answers := first.answers ++ others.answers, changed := first.changed || others.changed }

/-- The entries of a chain whose patience has run out (R46). -/
def State.overdue (s : State) (c : CellIx) : List ParkEntry :=
  (s.chain c).filter (fun e => e.deadline.any (fun d => decide (d ≤ s.now)))

/-- The expiries that the Park List takes after a pass of a cascade, before the next one or before the end of the access
(R53): any of the overdue entries of the chain, in any order, as the free value says; each is answered EXPIRED at once
(R52). -/
def expireInCascade (c : CellIx) : Nat → State → State
  | 0, s => s
  | n + 1, s =>
    match s.overdue c with
    | [] => s
    | e :: rest =>
      let s' : State := { s with choices := s.choices + 1 }
      match (e :: rest)[Config.expiresNext s.choices]? with
      | some x => expireInCascade c n (s'.endParked x .expired)
      | none => s'

/-- A cascade goes on by one pass, as long as an executed entry has changed the cell since the pass before (R50), over the
entries that no expiry has taken (R53). -/
def cascadeStep (c : CellIx) (x : Evaluated) : Evaluated :=
  if x.changed then
    let pass := cascadePass (x.state.chain c) x.state
    { state := expireInCascade c (pass.state.overdue c).length pass.state
      answers := x.answers ++ pass.answers
      changed := pass.changed }
  else x

/-- A cascade goes on by as many passes as a number, if there are so many. -/
def cascadeSteps (c : CellIx) : Nat → Evaluated → Evaluated
  | 0, x => x
  | n + 1, x => cascadeSteps c n (cascadeStep c x)

/-- A cascade goes on to its end: a chain of k entries takes at most k + 1 passes (R50). -/
def Evaluated.runOut (c : CellIx) (x : Evaluated) : Evaluated := cascadeSteps c ((x.state.chain c).length + 1) x

/-- The whole cascade over a cell's chain, with the responses it makes for the end of the access. -/
def State.cascade (c : CellIx) (s : State) : State × List (Port × Response) :=
  let x := Evaluated.runOut c { state := s, answers := [], changed := true }
  (x.state, x.answers)

end Sys2Proof.Machine
end

