-- ==== Sys2Proof/Machine/Control.lean ====
section
/-!
DEFINITION. The decisions that need the agreement of every UP port: the commit decision and the step to RUN (R141,
R142), the reopen decision and the end of the drain (R144, R145), and the retention decision (R110, R111).
-/
namespace Sys2Proof.Machine

/-- The ports in state UP. -/
def State.upPorts (s : State) : List Port := allFour.filter s.isUp

/-- At least one port is UP and every UP port meets a test: a quorum. -/
def State.quorum (s : State) (test : Port → Bool) : Bool := !s.upPorts.isEmpty && s.upPorts.all test

/-- The quorum of the commit decision (R141). -/
def State.commitQuorum (s : State) : Bool := s.quorum (fun p => s.config.commits.get p == some s.table.generation)

/-- The quorum of the reopen decision (R144). -/
def State.reopenQuorum (s : State) : Bool := s.quorum (fun p => s.config.reopenVotes.get p)

/-- Clears every commit record and answers every held COMMIT alike, in the order held (R140 to R142). -/
def State.answerCommits (body : RespBody) (s : State) : State :=
  State.replyHeld (responseKind .commit) body s.config.heldCommits
    (s.modConfig (fun k => { k with commits := Four.all none, heldCommits := [] }))

/-- The step to RUN: RUN, every held COMMIT answered OK, every commit record cleared, RUNNING raised (R142). -/
def State.goRun (s : State) : State :=
  ((s.modConfig (fun k => { k with state := .run })).answerCommits .ok).raiseAll .running

/-- The step to RUN is due: COMMITTING with no INIT_CELLS in flight (R142). -/
def State.runDue (s : State) : Bool := s.config.state == .committing && s.config.inits.isEmpty

/-- The test of the step to RUN (R142). -/
def State.testRun (s : State) : State := if s.runDue then s.goRun else s

/-- The commit decision, once its quorum is met: COMMITTING, or every held COMMIT answered OVERLAP (R141). -/
def State.decideCommit (s : State) : State :=
  match s.table.overlapPair with
  | some (i, j) => s.answerCommits (.overlap i j)
  | none => (s.modConfig (fun k => { k with state := .committing })).testRun

/-- Removes every parked entry and answers each WITHDRAWN in park order (R59). -/
def State.withdrawAll (s : State) : State :=
  s.park.foldl
    (fun s e => s.answerParked e (.operate (unmetReport .withdrawn e.lastValue e.lastOwner e.lastFlags)))
    { s with park := [] }

/-- Answers every held REOPEN OK in the order held (R145 step 4). -/
def State.answerReopens (s : State) : State :=
  State.replyHeld (responseKind .reopen) .ok s.config.heldReopens
    (s.modConfig (fun k => { k with heldReopens := [] }))

/-- The end of the drain, in the five steps of R145.
DESIGN CHOICE (notes/assumptions/39.md): it is taken before or after a recovery access in progress; between two evaluations
of that access's cascade, where R59 and R73 would let the withdrawal and the removal of the watches fall too, it is taken
only with a departure that falls there and brings it. -/
def State.endDrain (s : State) : State :=
  let s := s.withdrawAll
  let s : State := { s with watches := [] }
  let s := s.modConfig (fun k => { k with state := .setup, reopenVotes := Four.all false })
  let s := s.modRefresh (fun r => { r with votes := Four.all false })
  s.answerReopens.raiseAll .reconfigured

/-- The end of the drain is due: DRAINING with no host access queued or current (R145, R99). -/
def State.drainDue (s : State) : Bool := s.config.state == .draining && s.noHostAccess

/-- The test of the end of the drain (R145). -/
def State.testDrain (s : State) : State := if s.drainDue then s.endDrain else s

/-- The reopen decision, once its quorum is met: DRAINING, which can end at once (R144, R145). -/
def State.decideReopen (s : State) : State := (s.modConfig (fun k => { k with state := .draining })).testDrain

/-- The owners of the quorums test them: the commit decision in SETUP, the reopen decision in RUN (R141, R144, R167 step 4).
The step to RUN and the end of the drain wait for no quorum, so they are no part of it. -/
def State.testQuorums (s : State) : State :=
  match s.config.state with
  | .setup => if s.commitQuorum then s.decideCommit else s
  | .run => if s.reopenQuorum then s.decideReopen else s
  | .committing | .draining => s

/-- The Configuration Controller's test for the configuration state it is in: at most one of the commit decision, the
step to RUN, the reopen decision and the end of the drain can be due (R132). -/
def State.testConfig (s : State) : State :=
  match s.config.state with
  | .setup | .run => s.testQuorums
  | .committing => s.testRun
  | .draining => s.testDrain

/-- Whether `testConfig` would act. -/
def State.configDue (s : State) : Bool :=
  match s.config.state with
  | .setup => s.commitQuorum
  | .committing => s.runDue
  | .run => s.reopenQuorum
  | .draining => s.drainDue

/-- The conditions of the retention decision (R110). -/
def State.retentionDue (s : State) : Bool :=
  s.config.state == .run && s.quorum (fun p => s.refresh.votes.get p) && s.park.isEmpty &&
    s.hpus.toList.all Hpu.noTagOut && allFour.all (fun p => !s.isClearing p) && s.refresh.power == .active

/-- The retention decision: ENTERING, and the banks taken, the hold placed or kept (R111). -/
def State.enterRetention (s : State) : State :=
  let s := s.modRefresh (fun r => { r with power := .entering })
  if s.refresh.hold then s.testHeld else s.placeHold

/-- The Refresh Controller's test for the retention decision (R110). -/
def State.testRetention (s : State) : State := if s.retentionDue then s.enterRetention else s

end Sys2Proof.Machine
end

