-- ==== Sys2Proof/Machine/ConfigRequests.lean ====
section
/-!
DEFINITION. The requests of the Region Table, the Configuration Controller and the Refresh Controller: WRITE_REGION,
READ_REGION, WRITE_SETTINGS, INIT_CELLS, COMMIT, REOPEN, STAY, QUIESCE and WAKE.
-/
namespace Sys2Proof.Machine

/-! ### The Region Table -/

/-- An accepted write of the table: the generation advances by 1, every commit record is voided and every held COMMIT
answered SUPERSEDED, before the answer to the write (R122, R140). -/
def State.tableWritten (f : RegionTable → RegionTable) (s : State) : State :=
  State.answerCommits (.refused .superseded)
    { s with table := { f s.table with generation := s.table.generation + 1 } }

/-- Replaces a region entry (R124). -/
def RegionTable.setEntry (n : Nat) (e : RegionEntry) (t : RegionTable) : RegionTable :=
  { t with entries := t.entries.set n e }

/-- Replaces the settings (R125). -/
def RegionTable.setSettings (x : Settings) (t : RegionTable) : RegionTable := { t with settings := x }

/-- An admitted WRITE_REGION (R124). -/
def serveWriteRegion (p : Port) (f : Frame) (s : State) : State :=
  match f.regionFields with
  | some e =>
    let s := s.tableWritten (RegionTable.setEntry f.lowByte e)
    s.answer .writeRegion p f (.written s.table.generation)
  | none => s

/-- WRITE_REGION (R123, R124). -/
def execWriteRegion (p : Port) (f : Frame) (s : State) : Host.Outcome State Fault Refusal :=
  request .writeRegion p f (serveWriteRegion p f) s

/-- The answer to a READ_REGION: a region entry, or the settings record for selector 16, with the generation (R126). -/
def RegionTable.readAnswer (t : RegionTable) (selector : Nat) : RespBody :=
  if selector < regionCount then .region selector (t.entries.getD selector RegionEntry.reset) t.generation
  else .settings t.settings t.generation

/-- READ_REGION (R126). -/
def execReadRegion (p : Port) (f : Frame) (s : State) : Host.Outcome State Fault Refusal :=
  request .readRegion p f (fun s => s.answer .readRegion p f (s.table.readAnswer f.lowByte)) s

/-- An admitted WRITE_SETTINGS (R125). -/
def serveWriteSettings (p : Port) (f : Frame) (s : State) : State :=
  match f.settingsFields with
  | some x =>
    let s := s.tableWritten (RegionTable.setSettings x)
    s.answer .writeSettings p f (.written s.table.generation)
  | none => s

/-- WRITE_SETTINGS (R125). -/
def execWriteSettings (p : Port) (f : Frame) (s : State) : Host.Outcome State Fault Refusal :=
  request .writeSettings p f (serveWriteSettings p f) s

/-! ### The Configuration Controller -/

/-- An INIT_CELLS issues the group write of its next group, which joins that group's bank queue; its cell is the first
that the write covers (R84, R135 step 1). -/
def State.issueGroupWrite (i : InitFlight) (s : State) : State :=
  s.enqueue
    { port := i.port, tag := some i.tag, cell := max i.init.base i.nextGroup, work := .groupWrite i.init, bypass := 0 }

/-- The INIT_CELLS in flight of an admitted request (R134). -/
def newFlight (p : Port) (t : Tag) (i : InitFields) : InitFlight :=
  { port := p, tag := t, init := i, nextGroup := groupBase i.base }

/-- An admitted INIT_CELLS is entered among those in flight and issues its first group write at once (R134). -/
def serveInitCells (p : Port) (f : Frame) (s : State) : State :=
  match f.initFields with
  | some i =>
    (s.modConfig (fun k => { k with inits := k.inits ++ [newFlight p f.tag i] })).issueGroupWrite (newFlight p f.tag i)
  | none => s

/-- INIT_CELLS (R134). -/
def execInitCells (p : Port) (f : Frame) (s : State) : Host.Outcome State Fault Refusal :=
  request .initCells p f (serveInitCells p f) s

/-- The held requests of one port. -/
def heldOf (p : Port) (held : List (Port × Tag)) : List (Port × Tag) := held.filter (fun x => x.1 == p)

/-- Holds a request of a port at the end of a held list, in place of an earlier one of that port. -/
def holdRequest (p : Port) (t : Tag) (held : List (Port × Tag)) : List (Port × Tag) :=
  held.filter (fun x => x.1 != p) ++ [(p, t)]

/-- An admitted COMMIT: refused STALE when its generation is not the current one, otherwise recorded and held, an
earlier held COMMIT of the port being answered SUPERSEDED; the commit decision is then tested (R139). -/
def serveCommit (p : Port) (f : Frame) (s : State) : State :=
  if f.generationField = s.table.generation then
    let earlier := heldOf p s.config.heldCommits
    let s := s.modConfig (fun k =>
      { k with commits := k.commits.set p (some s.table.generation), heldCommits := holdRequest p f.tag k.heldCommits })
    (s.replyHeld (responseKind .commit) (.refused .superseded) earlier).testConfig
  else s.answer .commit p f (.refused .stale)

/-- COMMIT (R139). -/
def execCommit (p : Port) (f : Frame) (s : State) : Host.Outcome State Fault Refusal :=
  request .commit p f (serveCommit p f) s

/-- Holds a REOPEN, an earlier one of the port being answered SUPERSEDED (R143). -/
def State.holdReopen (p : Port) (t : Tag) (s : State) : State :=
  let earlier := heldOf p s.config.heldReopens
  (s.modConfig (fun k => { k with heldReopens := holdRequest p t k.heldReopens })).replyHeld (responseKind .reopen)
    (.refused .superseded) earlier

/-- An admitted REOPEN: in RUN it also records the vote, and the reopen decision is tested (R143). -/
def serveReopen (p : Port) (f : Frame) (s : State) : State :=
  if s.config.state = .run then
    ((s.modConfig (fun k => { k with reopenVotes := k.reopenVotes.set p true })).holdReopen p f.tag).testConfig
  else s.holdReopen p f.tag

/-- REOPEN (R143). -/
def execReopen (p : Port) (f : Frame) (s : State) : Host.Outcome State Fault Refusal :=
  request .reopen p f (serveReopen p f) s

/-- An admitted STAY: withdraws the requester's vote and answers its held REOPEN SUPERSEDED before its own OK, or is
answered NOT_FOUND (R143). -/
def serveStay (p : Port) (f : Frame) (s : State) : State :=
  if s.config.reopenVotes.get p then
    let earlier := heldOf p s.config.heldReopens
    let s := s.modConfig (fun k =>
      { k with reopenVotes := k.reopenVotes.set p false, heldReopens := k.heldReopens.filter (fun x => x.1 != p) })
    (s.replyHeld (responseKind .reopen) (.refused .superseded) earlier).answer .stay p f .ok
  else s.answer .stay p f (.refused .notFound)

/-- STAY (R143). -/
def execStay (p : Port) (f : Frame) (s : State) : Host.Outcome State Fault Refusal :=
  request .stay p f (serveStay p f) s

/-! ### The Refresh Controller -/

/-- QUIESCE (R108). Its own tag stays OUTSTANDING until its OK is sent, so the vote it records cannot complete the
retention decision here (R110); the sending tests it. -/
def execQuiesce (p : Port) (f : Frame) (s : State) : Host.Outcome State Fault Refusal :=
  request .quiesce p f
    (fun s => (s.modRefresh (fun r => { r with votes := r.votes.set p true })).answer .quiesce p f .ok) s

/-- Holds a WAKE (R114). -/
def State.holdWake (p : Port) (t : Tag) (s : State) : State :=
  s.modRefresh (fun r => { r with heldWakes := r.heldWakes ++ [(p, t)] })

/-- Starts the exit from retention (R115). -/
def State.startExit (s : State) : State := s.modRefresh (fun r => { r with power := .waking })

/-- An admitted WAKE, by the power state (R114). -/
def serveWake (p : Port) (f : Frame) (s : State) : State :=
  match s.refresh.power with
  | .active => s.answer .wake p f .ok
  | .retained => (s.holdWake p f.tag).startExit
  | .entering | .waking => s.holdWake p f.tag

/-- WAKE (R114). -/
def execWake (p : Port) (f : Frame) (s : State) : Host.Outcome State Fault Refusal :=
  request .wake p f (serveWake p f) s

end Sys2Proof.Machine
end

