-- ==== Sys2Proof/Machine/Teardown.lean ====
section
/-!
DEFINITION. Teardown: its start (R155, R160, R161), the walk of the stamp list (R162 to R164), its completion (R167),
and what falls together with a teardown start or the end of an access.
-/
namespace Sys2Proof.Machine

/-- A port goes UP by JOIN: counter 0, attention on, PORT_JOINED to every other UP port (R156). -/
def State.joinUp (p : Port) (s : State) : State :=
  let s := s.modHpu p (fun h => { h with port := .up })
  let s := s.modEvents p (fun q => { q with seq := 0, attention := true })
  s.raiseOthers p (.portJoined p)

/-- A port leaves CLEARING: UP with a held JOIN answered OK, otherwise LINKED or DOWN by its link (R147, R156). -/
def State.leaveClearing (p : Port) (s : State) : State :=
  match (s.hpu p).heldJoin with
  | some t =>
    ((s.modHpu p (fun h => { h with heldJoin := none })).joinUp p).reply p (responseKind .join) t .ok
  | none => s.modHpu p (fun h => { h with port := if h.link = .alive then .linked else .down })

/-- Teardown completes, in the four steps of R167. Its last step tests the quorums alone; an end of the drain or a step to RUN
that falls together with it is an act of its own (`State.settle`). -/
def State.completeTeardown (p : Port) (s : State) : State :=
  match s.teardown.get p with
  | none => s
  | some r =>
    let s := s.raiseOthers p (.portCleared p r.restored r.released r.held)
    let s : State := { s with teardown := s.teardown.set p none }
    (s.leaveClearing p).testQuorums.testRetention

/-- The cells of a port's stamp list that its walk has not passed, in list order (R163). -/
def State.untaken (s : State) (p : Port) : List CellIx :=
  match s.teardown.get p with
  | none => []
  | some r => (s.stamps.get p).filter (fun c => !(r.passed.contains c))

/-- Issues a recovery access for a cell (R163, R164). -/
def State.issueRecovery (p : Port) (c : CellIx) (policy : LossPolicy) (default : Option Word) (s : State) : State :=
  (s.modTeardown p (fun r => { r with phase := .recovering, current := some c })).enqueue
    { port := p, tag := none, cell := c, work := .recovery policy default, bypass := 0 }

/-- The walk over the cells not yet taken: a HOLD cell is passed, the first other one gets its recovery access, and
when none is left teardown completes (R163, R167). -/
def walkCells (p : Port) : List CellIx → State → State
  | [], s => s.completeTeardown p
  | c :: rest, s =>
    match s.table.lossLookup c with
    | (.hold, _) =>
      walkCells p rest (s.modTeardown p (fun r => { r with passed := r.passed ++ [c], held := r.held + 1 }))
    | (.restore, d) => s.issueRecovery p c .restore d
    | (.release, _) => s.issueRecovery p c .release none

/-- The walk goes on from the oldest cell not yet taken, in phase WALKING (R163). -/
def State.walk (p : Port) (s : State) : State :=
  walkCells p (s.untaken p) (s.modTeardown p (fun r => { r with phase := .walking, current := none }))

/-- The walk of a port is due: its record is AWAITING and no awaited bank remains (R162). -/
def State.walkDue (s : State) (p : Port) : Bool :=
  match s.teardown.get p with
  | some r => r.phase == .awaiting && r.awaited.toList.all (fun x => !x)
  | none => false

/-- Teardown of a port is complete but for its last steps: the record WALKING and no cell outside the passed ones
(R167). -/
def State.completionDue (s : State) (p : Port) : Bool :=
  match s.teardown.get p with
  | some r => r.phase == .walking && r.current.isNone && (s.untaken p).isEmpty
  | none => false

/-! ### Happenings that fall together -/

/-- What one happening can make due beside its own effect: the start of a port's walk, a configuration decision, an
opportunistic refresh. -/
inductive Act where
  | walk (p : Port)
  | config
  | refresh
  deriving DecidableEq, Repr

/-- The number of an act, the second argument of `Config.orderKey`. -/
def Act.number : Act → Nat
  | .walk p => p.val
  | .config => 4
  | .refresh => 5

/-- Takes one act, if it is still due. -/
def Act.run (a : Act) (s : State) : State :=
  match a with
  | .walk p => if s.walkDue p then s.walk p else s
  | .config => s.testConfig
  | .refresh => s.testOpportunity

/-- The acts that are due. -/
def State.dueActs (s : State) : List Act :=
  (allFour.filter s.walkDue).map Act.walk ++ (if s.configDue then [.config] else []) ++
    (if s.opportunityDue then [.refresh] else [])

/-- Acts in the order of the free key (`Config.orderKey`): any order is possible. -/
def freeOrder (n : Nat) (acts : List Act) : List Act := inKeyOrder (fun a => Config.orderKey n a.number) acts

/-- Takes the acts that fall together with a happening. A walk and another act are taken in either order (4.5, R74,
R85, R103): the free key decides. A configuration decision and an opportunistic refresh touch different state
and are taken as listed.
DESIGN CHOICE (notes/assumptions/37.md): each act is taken whole, so its events are not parted by another's and stand in
the same order in every queue; R74 leaves the order of events of separate happenings open, queue by queue. -/
def State.settle (s : State) : State :=
  if allFour.any s.walkDue && decide (2 ≤ s.dueActs.length) then
    (freeOrder s.choices s.dueActs).foldl (fun s a => a.run s) { s with choices := s.choices + 1 }
  else s.dueActs.foldl (fun s a => a.run s) s

/-! ### Teardown start -/

/-- Whether a port's group write with a tag is the current access of a bank. -/
def State.groupWriteCurrent (s : State) (p : Port) (t : Tag) : Bool :=
  s.banks.toList.any (fun k => k.current.any (fun a => a.isGroupWrite && a.port == p && a.tag == some t))

/-- The HPU's share: CLEARING, and every tag FREE but those whose responses stand in the send list (R155). -/
def Hpu.startTeardown (h : Hpu) : Hpu :=
  let keep := h.sendList.map (fun r => r.tag)
  let st (t : Tag) : TagState := if keep.contains t then .outstanding else .free
  { h with port := .clearing, tags := ⟨st 0, st 1, st 2, st 3, st 4, st 5, st 6, st 7⟩ }

/-- The Configuration Controller's share: votes and held requests gone, and the port's INIT_CELLS ended, but for one
whose group write is a bank's current access (R138, R140, R143). -/
def ConfigCtl.dropPort (p : Port) (keep : InitFlight → Bool) (k : ConfigCtl) : ConfigCtl :=
  { k with
    commits := k.commits.set p none
    reopenVotes := k.reopenVotes.set p false
    heldCommits := k.heldCommits.filter (fun x => x.1 != p)
    heldReopens := k.heldReopens.filter (fun x => x.1 != p)
    inits := k.inits.filter (fun i => i.port != p || keep i) }

/-- The Refresh Controller's share: the port's vote and held WAKEs gone (R109, R116). -/
def RefreshCtl.dropPort (p : Port) (r : RefreshCtl) : RefreshCtl :=
  { r with votes := r.votes.set p false, heldWakes := r.heldWakes.filter (fun x => x.1 != p) }

/-- The teardown record at its start: AWAITING the banks that have a current access, zero counts (R159, R160). -/
def startRecord (reason : LossReason) (banks : Four BankCtl) : TeardownRec :=
  { reason := reason, phase := .awaiting, awaited := banks.map (fun k => k.current.isSome), passed := [],
    current := none, restored := 0, released := 0, held := 0 }

/-- Every block takes its notice of a teardown start (R160's table), and PORT_LOST is raised last. -/
def State.clearPort (p : Port) (reason : LossReason) (s : State) : State :=
  let kept := fun (i : InitFlight) => s.groupWriteCurrent p i.tag
  let s := s.modHpu p Hpu.startTeardown
  let s : State := { s with teardown := s.teardown.set p (some (startRecord reason s.banks)) }
  let s : State := { s with banks := s.banks.map (BankCtl.dropPort p) }
  let s := s.modConfig (ConfigCtl.dropPort p kept)
  let s : State := { s with park := s.park.filter (fun e => e.port != p) }
  let s : State := { s with watches := s.watches.filter (fun w => w.port != p) }
  let s := s.modEvents p (fun q => { q with queue := [], attention := false })
  let s := s.modRefresh (RefreshCtl.dropPort p)
  s.raiseOthers p (.portLost p reason)

/-- Teardown start, taken whole, and then what falls together with it (R160 to R162). -/
def State.startTeardown (p : Port) (reason : LossReason) (s : State) : State := (s.clearPort p reason).settle

/-! ### The end of an access -/

/-- Takes a bank out of every teardown's awaited banks (R162). -/
def State.noteEnded (b : Bank) (s : State) : State :=
  { s with teardown := s.teardown.map (fun r => r.map (fun r => { r with awaited := r.awaited.set b false })) }

/-- The end of an access once its responses, its firings and its report are made: the bank goes on (R90, R91, R96), the
bank is awaited no more (R162), and what falls together with it is taken (R99, R103, R142, R145, R162).
DESIGN CHOICE (notes/assumptions/35.md): the bank picks or closes before a walk that this end lets begin issues its first
recovery access, which may join that very queue; R91 and R162 leave the order open.
DESIGN CHOICE (notes/assumptions/38.md): an entry that the access's report issued has joined its queue before the
opportunistic refresh is tested here; R103 leaves the order open. -/
def State.finishAccess (b : Bank) (s : State) : State := ((s.endAtBank b).noteEnded b).settle

/-- The access being performed at a bank: its current access, when the bank is ACCESSING (R90). -/
def State.accessing (s : State) (b : Bank) : Option Access :=
  match (s.bank b).state with
  | .accessing _ => (s.bank b).current
  | _ => none

end Sys2Proof.Machine
end

