-- ==== Sys2Proof/Machine/Watches.lean ====
section
/-!
DEFINITION. The Watch Table: evaluating a cell's watches after an access that changed it (R67 to R70), creating a
watch (R65, R66), and the CELL_LOST firings of retention entry (R71). The table is kept in rising order of id.
-/
namespace Sys2Proof.Machine

/-- Whether a trigger's predicate holds on the value of a LIVE cell; absent for CHANGE (R63, R65 step 4). -/
def triggerResult (t : Trigger) (value : Word) : Option Bool :=
  match t with
  | .change => none
  | .pred q cmp => some (predHolds q (compareFlags value cmp))

/-- The last result of a watch on a cell that is not LIVE: false for every predicate, ALWAYS included (R69, R71);
absent for CHANGE. -/
def lostResult (t : Trigger) : Option Bool :=
  match t with
  | .change => none
  | .pred _ _ => some false

/-- Whether a watch fires at an evaluation that finds a value: a CHANGE watch always, a predicate watch when its last
result is false and its predicate holds (R68, R69). -/
def Watch.fires (w : Watch) (value : Word) : Bool :=
  match w.trigger with
  | .change => true
  | .pred _ _ => triggerResult w.trigger value == some true && w.last != some true

/-- The WATCH_FIRED event of a watch: its id, its cell, and the value and owner after the access (R68, R69). -/
def Watch.firing (w : Watch) (value : Word) (owner : Option Port) : Event := .watchFired w.id w.cell value owner

/-- Removes the watch with an id. -/
def State.removeWatch (id : Nat) (s : State) : State := { s with watches := s.watches.filter (fun w => w.id != id) }

/-- Replaces the last result of the watch with an id. -/
def State.setLast (id : Nat) (last : Option Bool) (s : State) : State :=
  { s with watches := s.watches.map (fun w => if w.id = id then { w with last := last } else w) }

/-- Evaluates one watch on a cell: renews its last result, fires it when it triggers, and removes it when it fires in
mode ONCE (R69, R70). -/
def State.evalWatch (v : Word) (o : Option Port) (w : Watch) (s : State) : State :=
  let s := s.setLast w.id (triggerResult w.trigger v)
  if w.fires v then
    let s := s.raise w.port (w.firing v o)
    if w.mode = .once then s.removeWatch w.id else s
  else s

/-- The watches on a cell, in ascending order of id. -/
def State.watchesOn (s : State) (c : CellIx) : List Watch := s.watches.filter (fun w => w.cell == c)

/-- Evaluates the watches on a cell once, in ascending order of id, on the cell as it stands (R67). An access that
changed a cell leaves it LIVE, so there is nothing to evaluate on any other. -/
def State.evalWatches (c : CellIx) (s : State) : State :=
  match s.readCell c with
  | .live v o _ => (s.watchesOn c).foldl (fun s' w => s'.evalWatch v o w) s
  | _ => s

/-- How many watches a port has. -/
def State.watchCount (s : State) (p : Port) : Nat := (s.watches.filter (fun w => w.port == p)).length

/-- The capacity test of a WATCH (R65 step 3). -/
def State.watchFull (s : State) (p : Port) : Bool :=
  decide (Config.watchCapacity ≤ s.watches.length) || decide (Config.watchCapacityPerPort ≤ s.watchCount p)

/-- The lowest free id (R65 step 4). -/
def State.freeWatchId (s : State) : Nat :=
  ((List.range Config.watchCapacity).find? (fun i => s.watches.all (fun w => w.id != i))).getD 0

/-- Places a watch in a table kept in rising order of id. -/
def insertWatch (w : Watch) : List Watch → List Watch
  | [] => [w]
  | x :: rest => if w.id < x.id then w :: x :: rest else x :: insertWatch w rest

/-- The watch a WATCH creates on a cell (R65 step 4). -/
def newWatch (id : Nat) (p : Port) (c : CellIx) (f : WatchFields) (value : Word) : Watch :=
  { id := id, port := p, cell := c, trigger := f.trigger, mode := f.mode, last := triggerResult f.trigger value }

/-- Whether report-now fires a new watch: CHANGE at once, a predicate when it holds (R66). -/
def firesAtCreation (f : WatchFields) (value : Word) : Bool :=
  f.reportNow &&
    match f.trigger with
    | .change => true
    | .pred _ _ => triggerResult f.trigger value == some true

/-- Enters a watch in the table. -/
def State.addWatch (w : Watch) (s : State) : State := { s with watches := insertWatch w s.watches }

/-- The report-now firing of a new watch, which removes it in mode ONCE (R66). -/
def State.reportNow (w : Watch) (f : WatchFields) (v : Word) (o : Option Port) (s : State) : State :=
  if firesAtCreation f v then
    let s := s.raise w.port (w.firing v o)
    if w.mode = .once then s.removeWatch w.id else s
  else s

/-- Places a watch in a list in rising order of cell, after those of its own cell. -/
def insertByCell (w : Watch) : List Watch → List Watch
  | [] => [w]
  | x :: rest => if w.cell < x.cell then w :: x :: rest else x :: insertByCell w rest

/-- Watches in rising order of cell and, for one cell, in the order given (R71). -/
def byCell (ws : List Watch) : List Watch := ws.foldl (fun acc w => insertByCell w acc) []

/-- The CELL_LOST firing of one watch: the record, then the watch leaves in mode ONCE and stays with a predicate's
last result false in mode REPEAT (R71). -/
def State.fireLost (w : Watch) (s : State) : State :=
  let s := s.raise w.port (.cellLost w.id w.cell)
  if w.mode = .once then s.removeWatch w.id
  else s.setLast w.id (lostResult w.trigger)

/-- The watches that fire CELL_LOST when the banks outside a mask are lost: those on cells that are LIVE now, in
ascending order of cell and of id (R71). -/
def State.watchesLost (s : State) (mask : BitVec 4) : List Watch :=
  byCell (s.watches.filter (fun w => !(mask.getLsbD (bankOf w.cell).val) && (s.readCell w.cell).isLive))

end Sys2Proof.Machine
end

