-- ==== Sys2Proof/Machine/Accesses.lean ====
section
/-!
DEFINITION. The accesses a bank performs on its open row (R90): OPERATE_ACCESS, GROUP_READ_ACCESS, SET_RECOVERY_ACCESS,
WATCH_ACCESS, GROUP_WRITE and RECOVERY_ACCESS. Each is one whole: its effects on the cell, its cascade, its
responses, the watch evaluation, its report, and what the bank does next.
-/
namespace Sys2Proof.Machine

/-! ### An access that changes its cell (R7, R25 to R29, R47, R90, R165, R166) -/

/-- An OPERATE executed at its own access on a LIVE cell (R25 to R30): the cell written, the response made.
DEDUCED (notes/assumptions/30.md): the response reports the cell as this operation left it, as R30 and R33 say and 12.1 and
12.2 show; the record as it stands after the cascade, of which the last sentence of R5 speaks, is what the last executed
operation of the access reports (R33). -/
def State.executed (p : Port) (t : Tag) (c : CellIx) (op : OpFields) (v : Word) (o : Option Port) (rec : Option Word)
    (s : State) : Evaluated :=
  { state := s.putCell c (opRecord op p v o rec)
    answers := [operateAnswer p t (.operate (doneReport op p v o))]
    changed := true }

/-- A creating OPERATE executed at its own access: the cell LIVE with the update operand (R7). -/
def State.created (p : Port) (t : Tag) (c : CellIx) (op : OpFields) (s : State) : Evaluated :=
  { state := s.putCell c (.live op.arg (ownerAfter op.stamp p none) none)
    answers := [operateAnswer p t (.operate (createdReport op p))]
    changed := true }

/-- The value a recovery access that acts leaves (R165). -/
def recoveredValue (policy : LossPolicy) (value : Word) (rec default : Option Word) : Word :=
  match policy with
  | .restore => rec.getD (default.getD value)
  | .release | .hold => value

/-- A recovery access that acts: the owner cleared and, under RESTORE, the value written (R165). -/
def State.recovered (c : CellIx) (policy : LossPolicy) (default : Option Word) (v : Word) (rec : Option Word)
    (s : State) : Evaluated :=
  { state := s.putCell c (.live (recoveredValue policy v rec default) none rec), answers := [], changed := true }

/-- The opening operation of an access that changes its cell: an OPERATE that executes and changes its value or owner, a
creating OPERATE, and a recovery access whose port still owns the cell (R29). None for any other access. -/
def State.openAccess (a : Access) (s : State) : Option Evaluated :=
  match a.work, a.tag with
  | .operate op, some t =>
    match s.readCell a.cell with
    | .live v o rec =>
      if guardHolds op a.port v o && !stampFull op.stamp o (s.stampCount a.port) && opChanges op a.port v o then
        some (s.executed a.port t a.cell op v o rec)
      else none
    | _ =>
      if isCreating op && !stampFull op.stamp none (s.stampCount a.port) then some (s.created a.port t a.cell op)
      else none
  | .recovery policy default, _ =>
    match s.readCell a.cell with
    | .live v o rec => if o = some a.port then some (s.recovered a.cell policy default v rec) else none
    | _ => none
  | _, _ => none

/-- Raises the count of a policy (R166). -/
def TeardownRec.count (policy : LossPolicy) (r : TeardownRec) : TeardownRec :=
  match policy with
  | .restore => { r with restored := r.restored + 1 }
  | .release => { r with released := r.released + 1 }
  | .hold => r

/-- What follows the cascade of an access that changed its cell: the responses are handed, the opening operation's first and
the released entries' in the order they were made (R34, R51); the cell's watches are evaluated (R67); a recovery access
is counted and its walk goes on (R166); the access ends (R90). -/
def State.closeAccess (b : Bank) (a : Access) (x : Evaluated) : State :=
  let s := (x.state.handAll x.answers).evalWatches a.cell
  match a.work with
  | .recovery policy _ => ((s.modTeardown a.port (TeardownRec.count policy)).walk a.port).finishAccess b
  | .operate _ | .groupRead | .setRecovery _ | .watch _ | .groupWrite _ => s.finishAccess b

/-- An access that may change its cell: with its cascade when it does, and otherwise by what it does then. -/
def State.runAccess (b : Bank) (a : Access) (unchanging : State → State) (s : State) : State :=
  match s.openAccess a with
  | some x => State.closeAccess b a (x.runOut a.cell)
  | none => (unchanging s).finishAccess b

/-! ### OPERATE (R6, R7, R20) -/

/-- Answers the OPERATE that opened an access. -/
def State.answerOperate (p : Port) (t : Tag) (body : RespBody) (s : State) : State :=
  s.replyUp p (responseKind .operate) t body

/-- An OPERATE whose guard is false at its own access: FALSE, parked, or UNPARKED (R31, R32, R43, R44). -/
def State.guardFalse (p : Port) (t : Tag) (c : CellIx) (op : OpFields) (v : Word) (o : Option Port) (s : State) :
    State :=
  if op.patience = 0 then
    s.answerOperate p t (.operate (unmetReport .false v o (compareFlags v op.cmp)))
  else if !s.isUp p then s
  else if s.park.length < Config.parkCapacity then s.parkNow p t c op v o
  else s.answerOperate p t (.operate (unmetReport .unparked v o (compareFlags v op.cmp)))

/-- An OPERATE whose guard holds at its own access and that leaves its cell as it is: refused STAMP_FULL, or executed
without a change (R28, R30). -/
def State.guardTrue (p : Port) (t : Tag) (c : CellIx) (op : OpFields) (v : Word) (o : Option Port) (rec : Option Word)
    (s : State) : State :=
  if stampFull op.stamp o (s.stampCount p) then s.answerOperate p t (.refused .stampFull)
  else
    let x := s.executed p t c op v o rec
    x.state.handAll x.answers

/-- The OPERATE's access to a cell that it leaves as it is (R6, R20); an OPERATE that would create its cell is here only when
it is refused STAMP_FULL (R28). -/
def State.performOperate (p : Port) (t : Tag) (c : CellIx) (op : OpFields) (s : State) : State :=
  match s.readCell c with
  | .live v o rec =>
    if guardHolds op p v o then s.guardTrue p t c op v o rec else s.guardFalse p t c op v o
  | r => s.answerOperate p t (.refused (if isCreating op then .stampFull else refusalOf r))

/-- OPERATE_ACCESS of a bank (R20). The access is one command, whole (notes/assumptions/33.md); what CANCEL, LEAVE and
LINK_LOSS find of an access that is in progress when they come is `State.inside`. -/
def execOperateAccess (b : Bank) (s : State) : Host.Outcome State Fault Refusal :=
  whileReleased s (fun s =>
    match s.accessing b with
    | some { port := p, tag := some t, cell := c, work := .operate op, bypass := n } =>
      s.runAccess b { port := p, tag := some t, cell := c, work := .operate op, bypass := n } (State.performOperate p t c op)
    | _ => s)

/-! ### GROUP_READ (R37 to R40) -/

/-- One entry of a GROUP_READ response for a port (R39). -/
def State.groupEntry (s : State) (p : Port) (c : CellIx) : GroupEntry :=
  if s.table.readable p c then
    match s.readCell c with
    | .live v o _ => .live v o
    | .void => .void
    | .lost => .lost
  else .withheld

/-- The GROUP_READ's access: the sixteen entries in wrap order, nothing written (R37, R38). -/
def State.performGroupRead (p : Port) (t : Tag) (c : CellIx) (s : State) : State :=
  s.replyUp p (responseKind .groupRead) t (.groupRead c ((groupOrder c).map (s.groupEntry p)))

/-- GROUP_READ_ACCESS of a bank (R37). -/
def execGroupReadAccess (b : Bank) (s : State) : Host.Outcome State Fault Refusal :=
  whileReleased s (fun s =>
    match s.accessing b with
    | some { port := p, tag := some t, cell := c, work := .groupRead, bypass := _ } =>
      (s.performGroupRead p t c).finishAccess b
    | _ => s)

/-! ### SET_RECOVERY (R15) -/

/-- The SET_RECOVERY's access: the recovery value replaced or cleared, the one before returned (R15). -/
def State.performSetRecovery (p : Port) (t : Tag) (c : CellIx) (rec : Option Word) (s : State) : State :=
  match s.readCell c with
  | .live v o before =>
    (s.putCell c (.live v o rec)).replyUp p (responseKind .setRecovery) t (.setRecovery before)
  | r => s.replyUp p (responseKind .setRecovery) t (.refused (refusalOf r))

/-- SET_RECOVERY_ACCESS of a bank (R15). -/
def execSetRecoveryAccess (b : Bank) (s : State) : Host.Outcome State Fault Refusal :=
  whileReleased s (fun s =>
    match s.accessing b with
    | some { port := p, tag := some t, cell := c, work := .setRecovery rec, bypass := _ } =>
      (s.performSetRecovery p t c rec).finishAccess b
    | _ => s)

/-! ### WATCH (R65, R66) -/

/-- The WATCH's access, in the steps of R65; the response is handed before a report-now firing (R66). -/
def State.performWatch (p : Port) (t : Tag) (c : CellIx) (f : WatchFields) (s : State) : State :=
  match s.readCell c with
  | .live v o _ =>
    if !s.isUp p then s
    else if s.watchFull p then s.replyUp p (responseKind .watch) t (.refused .watchFull)
    else
      let w := newWatch s.freeWatchId p c f v
      ((s.addWatch w).replyUp p (responseKind .watch) t (.watch w.id v o w.last)).reportNow w f v o
  | r => s.replyUp p (responseKind .watch) t (.refused (refusalOf r))

/-- WATCH_ACCESS of a bank (R65). -/
def execWatchAccess (b : Bank) (s : State) : Host.Outcome State Fault Refusal :=
  whileReleased s (fun s =>
    match s.accessing b with
    | some { port := p, tag := some t, cell := c, work := .watch f, bypass := _ } =>
      (s.performWatch p t c f).finishAccess b
    | _ => s)

/-! ### Group writes (R135 to R138) -/

/-- Writes every covered cell of a group (R136). -/
def State.writeGroup (i : InitFields) (group : CellIx) (s : State) : State :=
  (i.covered group).foldl (fun s c => s.putCell c (initRec i)) s

/-- The INIT_CELLS in flight of a port and tag. -/
def State.flightOf (s : State) (p : Port) (t : Tag) : Option InitFlight :=
  s.config.inits.find? (fun i => i.port == p && i.tag == t)

/-- Takes the INIT_CELLS of a port and tag out of those in flight. -/
def State.dropFlight (p : Port) (t : Tag) (s : State) : State :=
  s.modConfig (fun k => { k with inits := k.inits.filter (fun i => !(i.port == p && i.tag == t)) })

/-- Advances the INIT_CELLS of a port and tag to its following group (R135 step 2). -/
def State.advanceFlight (p : Port) (t : Tag) (next : CellIx) (s : State) : State :=
  s.modConfig (fun k =>
    { k with inits := k.inits.map (fun i => if i.port == p && i.tag == t then { i with nextGroup := next } else i) })

/-- The report of a group write's end to its INIT_CELLS (R135 steps 2 to 4, R138): the request of a lost port ends
without a response; one whose last cell the group held is answered; any other issues its next group write. -/
def State.reportGroupWrite (p : Port) (t : Tag) (group : CellIx) (s : State) : State :=
  match s.flightOf p t with
  | none => s
  | some i =>
    if !s.isUp p then s.dropFlight p t
    else if i.init.lastCell < group + 16 then
      (s.dropFlight p t).replyUp p (responseKind .initCells) t (.inited i.init.count i.init.groups)
    else (s.advanceFlight p t (group + 16)).issueGroupWrite { i with nextGroup := group + 16 }

/-- GROUP_WRITE of a bank (R136). DESIGN CHOICE (notes/assumptions/32.md): where its end is also the last one that a walk
awaited, the next group write of its INIT_CELLS joins its bank queue before the walk's recovery access does; R85 leaves
the order open.
DESIGN CHOICE (notes/assumptions/38.md): that next group write joins before the test for an opportunistic refresh that the
same end brings; R103 lets an arrival and a test that fall together be taken either way. -/
def execGroupWrite (b : Bank) (s : State) : Host.Outcome State Fault Refusal :=
  whileReleased s (fun s =>
    match s.accessing b with
    | some { port := p, tag := some t, cell := c, work := .groupWrite i, bypass := _ } =>
      ((s.writeGroup i (groupBase c)).reportGroupWrite p t (groupBase c)).finishAccess b
    | _ => s)

/-! ### Recovery accesses (R165, R166) -/

/-- RECOVERY_ACCESS of a bank: it acts when the cell's owner is still the lost port, and otherwise leaves the cell as it is;
its end is reported to the Teardown Unit, whose walk goes on (R165, R166).
DESIGN CHOICE (notes/assumptions/31.md): where the walk then completes, each WATCH_FIRED of this access stands before
PORT_CLEARED in its queue; R74 and R166 leave the order open.
DESIGN CHOICE (notes/assumptions/34.md): where the same end is the last one that another port's teardown awaited, this
port's walk goes on, with its next recovery access or its completion, before the other port's walk starts; R74, R85, R162
and R166 leave the order open.
DESIGN CHOICE (notes/assumptions/38.md): the walk's next recovery access joins before the test for an opportunistic refresh
that the same end brings; R103 lets an arrival and a test that fall together be taken either way. -/
def execRecoveryAccess (b : Bank) (s : State) : Host.Outcome State Fault Refusal :=
  whileReleased s (fun s =>
    match s.accessing b with
    | some { port := p, tag := t, cell := c, work := .recovery policy default, bypass := n } =>
      s.runAccess b { port := p, tag := t, cell := c, work := .recovery policy default, bypass := n } (State.walk p)
    | _ => s)

end Sys2Proof.Machine
end

