-- ==== Sys2Proof/Machine/CellRequests.lean ====
section
/-!
DEFINITION. The cell requests at admission: OPERATE, GROUP_READ, SET_RECOVERY and WATCH. An admitted one joins the bank
queue of its cell (R85).
-/
namespace Sys2Proof.Machine

/-- The bank queue entry of an admitted cell request (R84). -/
def cellAccess (p : Port) (f : Frame) (w : Work) : Access :=
  { port := p, tag := some f.tag, cell := f.cell, work := w, bypass := 0 }

/-- An admitted OPERATE joins the bank queue of its cell (R17, R18). -/
def serveOperate (p : Port) (f : Frame) (s : State) : State :=
  match f.operateFields with
  | some op => s.enqueue (cellAccess p f (.operate op))
  | none => s

/-- OPERATE (R18). -/
def execOperate (p : Port) (f : Frame) (s : State) : Host.Outcome State Fault Refusal :=
  request .operate p f (serveOperate p f) s

/-- GROUP_READ (R36). -/
def execGroupRead (p : Port) (f : Frame) (s : State) : Host.Outcome State Fault Refusal :=
  request .groupRead p f (fun s => s.enqueue (cellAccess p f .groupRead)) s

/-- SET_RECOVERY (R15). -/
def execSetRecovery (p : Port) (f : Frame) (s : State) : Host.Outcome State Fault Refusal :=
  request .setRecovery p f (fun s => s.enqueue (cellAccess p f (.setRecovery f.recoveryField))) s

/-- An admitted WATCH joins the bank queue of its cell (R64). -/
def serveWatch (p : Port) (f : Frame) (s : State) : State :=
  match f.watchFields with
  | some w => s.enqueue (cellAccess p f (.watch w))
  | none => s

/-- WATCH (R64). -/
def execWatch (p : Port) (f : Frame) (s : State) : Host.Outcome State Fault Refusal :=
  request .watch p f (serveWatch p f) s

end Sys2Proof.Machine
end

