-- ==== Sys2Proof/Machine/DeviceEvents.lean ====
section
/-!
DEFINITION. Happenings of the whole part and of its blocks' own: device reset, the banks' pick and the ends of row closes
and opens, park expiry, the steps of the Teardown Unit and of the Configuration Controller.
-/
namespace Sys2Proof.Machine

/-! ### Device reset (R174) -/

/-- The part while RESETn is held low: every block in its reset state, the refresh interval timer not yet begun (R101,
R174). The model's clock, its counter of choices and the waiting commands are not the part's and stay. -/
def State.heldInReset (s : State) : State :=
  { State.reset with
    refresh := { State.reset.refresh with timer := none }
    resetHigh := false
    now := s.now
    choices := s.choices
    pending := s.pending }

/-- DEVICE_RESET: RESETn is driven low, whatever is in progress (R16, R60, R100, R118, R170, R174). -/
def execDeviceReset (s : State) : Host.Outcome State Fault Refusal := .next s.heldInReset

/-- RESETn goes high: the refresh interval timer begins its first interval (R101, R174). -/
def State.releaseReset (s : State) : State :=
  { s with
    resetHigh := true
    refresh := { s.refresh with timer := some s.table.settings.interval } }

/-- RESET_RELEASE: nothing when RESETn is high already. -/
def execResetRelease (s : State) : Host.Outcome State Fault Refusal :=
  .next (if s.resetHigh then s else s.releaseReset)

/-! ### Banks (R87, R89, R91, R96) -/

/-- BANK_PICK: the pick rule at a free bank with no hold and a queue that is not empty (R87). -/
def execBankPick (b : Bank) (s : State) : Host.Outcome State Fault Refusal :=
  whileReleased s (fun s => s.pickBank b)

/-- A bank at the end of a close: OPENING for its current access, or IDLE (R89, R91). -/
def BankCtl.closeEnded (k : BankCtl) : BankCtl :=
  match k.current with
  | some a => { k with state := .opening a.row }
  | none => { k with state := .idle }

/-- Whether a bank is closing a row. -/
def BankCtl.isClosing (k : BankCtl) : Bool :=
  match k.state with
  | .closing _ => true
  | _ => false

/-- ROW_CLOSE_END: a bank left IDLE picks when no hold is placed (R91), and under the hold may be the last one the Refresh
Controller waited for (R97, R111). -/
def execRowCloseEnd (b : Bank) (s : State) : Host.Outcome State Fault Refusal :=
  whileReleased s (fun s =>
    if (s.bank b).isClosing then ((s.modBank b BankCtl.closeEnded).pickBank b).testHeld else s)

/-- A bank at the end of an open: its current access begins on the open row (R89). -/
def BankCtl.openEnded (k : BankCtl) : BankCtl :=
  match k.state, k.current with
  | .opening row, some _ => { k with state := .accessing row }
  | _, _ => k

/-- ROW_OPEN_END (R89). -/
def execRowOpenEnd (b : Bank) (s : State) : Host.Outcome State Fault Refusal :=
  whileReleased s (fun s => s.modBank b BankCtl.openEnded)

/-! ### Park expiry (R52) -/

/-- PARK_EXPIRY of the entry of a port and tag: the entry leaves and is answered EXPIRED with its last evaluation. An
entry with no deadline never expires (R46). -/
def execParkExpiry (p : Port) (t : Tag) (s : State) : Host.Outcome State Fault Refusal :=
  whileReleased s (fun s =>
    match s.parkedOf p t with
    | some e => if e.deadline.isSome then s.endParked e .expired else s
    | none => s)

/-! ### Teardown Unit (R162, R167) -/

/-- TEARDOWN_WALK_START: the walk of a port whose record is AWAITING no bank (R162). -/
def execTeardownWalkStart (p : Port) (s : State) : Host.Outcome State Fault Refusal :=
  whileReleased s (fun s => if s.walkDue p then s.walk p else s)

/-- TEARDOWN_COMPLETE: the walk of a port has ended with no recovery access pending (R167). -/
def execTeardownComplete (p : Port) (s : State) : Host.Outcome State Fault Refusal :=
  whileReleased s (fun s => if s.completionDue p then s.completeTeardown p else s)

/-! ### Configuration Controller (R142, R145) -/

/-- STEP_TO_RUN (R142). -/
def execStepToRun (s : State) : Host.Outcome State Fault Refusal := whileReleased s State.testRun

/-- DRAIN_END (R145). -/
def execDrainEnd (s : State) : Host.Outcome State Fault Refusal := whileReleased s State.testDrain

end Sys2Proof.Machine
end

