-- ==== Sys2Proof/Machine/Inside.lean ====
section
/-!
DEFINITION. What falls inside an access in progress: a CANCEL, or the start of a port's teardown, that the Park List takes
after the access's operation or some evaluations of its cascade, and before its end (R51, R56, R58, R162).
-/
namespace Sys2Proof.Machine

/-- An access in progress that has changed its cell: its bank, the access, the responses made so far, whether the pass in
progress has changed the cell, and the entries that pass has yet to reach. -/
structure Underway where
  bank : Bank
  access : Access
  answers : List (Port × Response)
  changed : Bool
  rest : List ParkEntry

/-- Whether a bank is performing an access that changes its cell while one of some entries is parked on it. -/
def State.inAccess (hit : ParkEntry → Bool) (s : State) (b : Bank) : Bool :=
  match s.accessing b with
  | some a => (s.chain a.cell).any hit && (s.openAccess a).isSome
  | none => false

/-- A cascade comes as far as some passes and some entries of the next one. -/
def comeTo (b : Bank) (a : Access) (passes entries : Nat) (x : Evaluated) : State × Underway :=
  let y := cascadeSteps a.cell passes x
  let chain := if y.changed then y.state.chain a.cell else []
  let pass := cascadePass (chain.take entries) y.state
  (pass.state,
    { bank := b, access := a, answers := y.answers ++ pass.answers, changed := pass.changed, rest := chain.drop entries })

/-- The access of a bank comes as far as the free values say: not begun, or its operation, some passes of its cascade and
some entries of the next pass done (DESIGN CHOICE, notes/assumptions/29.md). -/
def comeAlong (x : State × List Underway) (b : Bank) : State × List Underway :=
  let n := x.1.choices
  let s : State := { x.1 with choices := n + 2 }
  match Config.passesTaken n, s.accessing b with
  | passes + 1, some a =>
    match s.openAccess a with
    | some y =>
      let z := comeTo b a passes (Config.passesTaken (n + 1)) y
      (z.1, x.2 ++ [z.2])
    | none => (s, x.2)
  | _, _ => (s, x.2)

/-- An access in progress goes on to its end: the rest of the pass it was in, over the entries still parked, the expiries
after that pass, and the further passes. -/
def goOn (s : State) (x : Underway) : State :=
  let c := x.access.cell
  let pass := cascadePass (x.rest.filter (fun e => (s.parkedOf e.port e.tag).isSome)) s
  State.closeAccess x.bank x.access
    (Evaluated.runOut c
      { state := expireInCascade c (pass.state.overdue c).length pass.state
        answers := x.answers ++ pass.answers
        changed := x.changed || pass.changed })

/-- Takes a happening that claims some entries of the Park List. An access in progress that changes its cell, with such an
entry parked on it, may have come to any entry of its cascade when the happening is taken, and then goes on to its end.
Several such accesses come along, and end, in any order. -/
def State.inside (hit : ParkEntry → Bool) (happening : State → State) (s : State) : State :=
  let banks := allFour.filter (s.inAccess hit)
  if banks.isEmpty then happening s
  else
    let n := s.choices
    let underway :=
      (inKeyOrder (fun b => Config.orderKey n b.val) banks).foldl comeAlong ({ s with choices := n + 2 }, [])
    (inKeyOrder (fun x => Config.orderKey (n + 1) x.bank.val) underway.2).foldl goOn (happening underway.1)

end Sys2Proof.Machine
end

