-- ==== Sys2Proof/Machine/DirectRequests.lean ====
section
/-!
DEFINITION. The requests that the Park List, the Watch Table, the event queue and the HPU take directly: CANCEL, UNWATCH,
FETCH_EVENTS, ATTN_ON, ATTN_OFF and STATUS.
-/
namespace Sys2Proof.Machine

/-- What the Park List does when it takes a CANCEL (R55). -/
def takeCancel (p : Port) (f : Frame) (s : State) : State :=
  match s.parkedOf p f.targetTag with
  | some e => (s.endParked e .cancelled).answer .cancel p f .ok
  | none => s.answer .cancel p f (.refused .notFound)

/-- An admitted CANCEL, taken by the Park List. With its entry on the cell of an access in progress the CANCEL may be taken
inside that access: an entry that the cascade has executed by then is not found, and the NOT_FOUND goes ahead of its
response (R56). -/
def serveCancel (p : Port) (f : Frame) (s : State) : State :=
  s.inside (ParkEntry.isOf p f.targetTag) (takeCancel p f)

/-- CANCEL (R54, R55). -/
def execCancel (p : Port) (f : Frame) (s : State) : Host.Outcome State Fault Refusal :=
  request .cancel p f (serveCancel p f) s

/-- Whether the table holds a watch of a port with an id (R72). -/
def State.hasWatch (s : State) (p : Port) (id : Nat) : Bool := s.watches.any (fun w => w.id == id && w.port == p)

/-- An admitted UNWATCH, taken by the Watch Table (R72). -/
def serveUnwatch (p : Port) (f : Frame) (s : State) : State :=
  if s.hasWatch p f.lowByte then (s.removeWatch f.lowByte).answer .unwatch p f .ok
  else s.answer .unwatch p f (.refused .notFound)

/-- UNWATCH (R72). -/
def execUnwatch (p : Port) (f : Frame) (s : State) : Host.Outcome State Fault Refusal :=
  request .unwatch p f (serveUnwatch p f) s

/-- The most records a FETCH_EVENTS returns (R79). -/
def fetchLimit : Nat := 4

/-- An admitted FETCH_EVENTS, taken by the event queue: up to four records leave from the front (R79). -/
def serveFetchEvents (p : Port) (f : Frame) (s : State) : State :=
  let q := (s.eventPort p).queue
  (s.modEvents p (fun x => { x with queue := q.drop fetchLimit })).answer .fetchEvents p f
    (.events (q.take fetchLimit) (q.drop fetchLimit).length)

/-- FETCH_EVENTS (R79). -/
def execFetchEvents (p : Port) (f : Frame) (s : State) : Host.Outcome State Fault Refusal :=
  request .fetchEvents p f (serveFetchEvents p f) s

/-- Sets a port's attention enable (R80). -/
def State.setAttention (p : Port) (on : Bool) (s : State) : State := s.modEvents p (fun q => { q with attention := on })

/-- ATTN_ON (R80). -/
def execAttnOn (p : Port) (f : Frame) (s : State) : Host.Outcome State Fault Refusal :=
  request .attnOn p f (fun s => (s.setAttention p true).answer .attnOn p f .ok) s

/-- ATTN_OFF (R80). -/
def execAttnOff (p : Port) (f : Frame) (s : State) : Host.Outcome State Fault Refusal :=
  request .attnOff p f (fun s => (s.setAttention p false).answer .attnOff p f .ok) s

/-- The contents of a STATUS answer (R158), each field read from its block as the STATUS is taken. -/
def State.statusReport (s : State) (p : Port) : StatusReport :=
  { config := s.config.state
    generation := s.table.generation
    power := s.refresh.power
    overrun := s.refresh.overrun
    ports := s.hpus.map (fun h => h.port)
    occupancy := s.park.length
    freeWatches := Config.watchCapacity - s.watches.length
    stampCount := s.stampCount p
    eventCount := (s.eventPort p).queue.length }

/-- STATUS (R158). -/
def execStatus (p : Port) (f : Frame) (s : State) : Host.Outcome State Fault Refusal :=
  request .status p f (fun s => s.answer .status p f (.status (s.statusReport p))) s

end Sys2Proof.Machine
end

