-- ==== Sys2Proof/Machine/PortEvents.lean ====
section
/-!
DEFINITION. What happens at a port: JOIN and LEAVE, frames that are no request (BAD_KIND, IDLE_FRAME, FRAME_CHECK), the
loss of the link, and the sending of idle frames and responses.
-/
namespace Sys2Proof.Machine

/-- An admitted JOIN, by the port state (R156). -/
def serveJoin (p : Port) (f : Frame) (s : State) : State :=
  match (s.hpu p).port with
  | .up => s.answer .join p f .ok
  | .clearing =>
    let s' := match (s.hpu p).heldJoin with
      | some t => s.reply p (responseKind .join) t (.refused .superseded)
      | none => s
    s'.modHpu p (fun h => { h with heldJoin := some f.tag })
  | .linked | .down => (s.joinUp p).answer .join p f .ok

/-- JOIN (R156). -/
def execJoin (p : Port) (f : Frame) (s : State) : Host.Outcome State Fault Refusal :=
  request .join p f (serveJoin p f) s

/-- A port departs: its HPU's own share, and teardown starts. The start may fall inside an access in progress whose cascade
executes an entry of the port; the entry's effects then stand and its response is discarded (R51, R58, R162). -/
def State.depart (p : Port) (reason : LossReason) (share : State → State) (s : State) : State :=
  s.inside (fun e => e.port == p) (fun s => (share s).startTeardown p reason)

/-- An admitted LEAVE: its OK is appended to the send list, behind the responses it holds, and teardown starts with reason
LEAVE (R157). -/
def serveLeave (p : Port) (f : Frame) (s : State) : State := s.depart p .leave (State.answer .leave p f .ok)

/-- LEAVE (R157). -/
def execLeave (p : Port) (f : Frame) (s : State) : Host.Outcome State Fault Refusal :=
  request .leave p f (serveLeave p f) s

/-- A valid frame of unknown kind: discarded when its length field is wrong or its tag is OUTSTANDING, otherwise refused
BAD_KIND (R150, R152, R171). -/
def State.receiveUnknown (p : Port) (code : Byte) (f : Frame) (s : State) : State :=
  let s := s.receiveValid p
  if unknownLengthOk f then (s.stage p code f).admitStaged p false (some .badKind) badKindResponse id
  else s.portFault p .frameLength (some f.tag) (some code)

/-- BAD_KIND (R171). A code that names a defined kind is no frame of unknown kind, and the command then stands for no
happening. -/
def execBadKind (p : Port) (code : Byte) (f : Frame) (s : State) : Host.Outcome State Fault Refusal :=
  whileReleased s (fun s => if unknownKind code then s.receiveUnknown p code f else s)

/-- IDLE_FRAME: a valid idle frame acts on the link alone (R149); one with a payload or a length field other than 0
is discarded with PORT_FAULT FRAME_LENGTH (R150, R171). -/
def execIdleFrame (p : Port) (f : Frame) (s : State) : Host.Outcome State Fault Refusal :=
  whileReleased s (fun s =>
    let s := s.receiveValid p
    if idleLengthOk f then s else s.portFault p .frameLength (some f.tag) (some 0))

/-- FRAME_CHECK: a frame that fails its frame check is discarded with PORT_FAULT FRAME_CHECK, without tag or kind, and
does not act on the link (R150 step 1). Words that pass the check are the command `decodeFrame` gives, not this one. -/
def execFrameCheck (p : Port) (words : List Word) (s : State) : Host.Outcome State Fault Refusal :=
  whileReleased s (fun s => if frameCheckOk words then s else s.portFault p .frameCheck none none)

/-- The HPU's share of a link loss: DEAD, timers stopped, the send list and a held JOIN discarded, every tag FREE
(R148). -/
def Hpu.loseLink (h : Hpu) : Hpu :=
  { h with
    link := .dead
    recvTimer := none
    sendTimer := none
    sendList := []
    tags := Eight.all .free
    heldJoin := none }

/-- Link loss by the port state: LINKED goes DOWN, which the retention decision is tested after (R110); UP starts
teardown; CLEARING stays (R148). -/
def State.loseLink (p : Port) (s : State) : State :=
  let lose := State.modHpu p Hpu.loseLink
  match (s.hpu p).port with
  | .linked => ((lose s).modHpu p (fun h => { h with port := .down })).testRetention
  | .up => s.depart p .link lose
  | .clearing => lose s
  | .down => lose s

/-- LINK_LOSS: the receive timer of an ALIVE link reaches its limit (R148). -/
def execLinkLoss (p : Port) (s : State) : Host.Outcome State Fault Refusal :=
  whileReleased s (fun s => if s.isAlive p then s.loseLink p else s)

/-- A frame leaves on the link: the send timer goes back to zero (R149). -/
def Hpu.sent (words : List Word) (h : Hpu) : Hpu := { h with sendTimer := some 0, lastSent := some words }

/-- SEND_IDLE: the send timer of an ALIVE link reaches its limit and the part sends one idle frame (R149). -/
def execSendIdle (p : Port) (s : State) : Host.Outcome State Fault Refusal :=
  whileReleased s (fun s => if s.isAlive p then s.modHpu p (Hpu.sent idleFrameWords) else s)

/-- The first response of the send list is sent and its tag freed (R152, R154). -/
def Hpu.sendFirst (h : Hpu) : Hpu :=
  match h.sendList with
  | [] => h
  | r :: rest => { h.sent r.words with sendList := rest, tags := h.tags.set r.tag .free }

/-- RESPONSE_SENT (R154): the sending may leave no tag outstanding, so the retention decision is tested (R110). The
part sends nothing on a DEAD link (R149). -/
def execResponseSent (p : Port) (s : State) : Host.Outcome State Fault Refusal :=
  whileReleased s (fun s =>
    if s.isAlive p && !(s.hpu p).sendList.isEmpty then (s.modHpu p Hpu.sendFirst).testRetention else s)

end Sys2Proof.Machine
end

