-- ==== Sys2Proof/Machine/RefreshEvents.lean ====
section
/-!
DEFINITION. The Refresh Controller's happenings: the refresh interval's expiry, the start and end of a refresh, and the
steps into and out of retention.
-/
namespace Sys2Proof.Machine

/-! ### The refresh interval (R102 to R104, R106) -/

/-- A new refresh interval begins; its length is the setting as it stands (R102). -/
def State.beginInterval (s : State) : State :=
  s.modRefresh (fun r => { r with timer := some s.table.settings.interval })

/-- The debt rises by 1; reaching 4 in ACTIVE with the hold lifted begins an urgent refresh (R104), and otherwise the
conditions of an opportunistic one are tested (R103). -/
def State.raiseDebt (s : State) : State :=
  let urgent := s.refresh.power == .active && !s.refresh.hold && s.refresh.debt + 1 == Config.urgentDebt
  let s := s.modRefresh (fun r => { r with debt := r.debt + 1 })
  if urgent then s.placeHold else s.testOpportunity

/-- An expiry at debt 6: the overrun flag is set, and REFRESH_OVERRUN raised the first time (R106). -/
def State.overrunNow (s : State) : State :=
  let s' := s.modRefresh (fun r => { r with overrun := true, overrunRaised := true })
  (if s.refresh.overrunRaised then s' else s'.raiseAll .refreshOverrun).testOpportunity

/-- An expiry of the refresh interval timer, by the power state (R102). -/
def State.intervalExpiry (s : State) : State :=
  let s := s.beginInterval
  match s.refresh.power with
  | .active | .entering => if s.refresh.debt < Config.debtCap then s.raiseDebt else s.overrunNow
  | .retained | .waking => s

/-- REFRESH_INTERVAL_EXPIRY (R102); the timer is stopped only while RESETn is low. -/
def execRefreshIntervalExpiry (s : State) : Host.Outcome State Fault Refusal :=
  whileReleased s (fun s => if s.refresh.timer.isSome then s.intervalExpiry else s)

/-! ### Refreshes (R105) -/

/-- REFRESH_START (R97, R105). -/
def execRefreshStart (s : State) : Host.Outcome State Fault Refusal := whileReleased s State.testRefreshStart

/-- What follows the end of a refresh in ACTIVE, from the debt after its fall (R105's table). -/
def State.afterRefresh (s : State) : State :=
  if Config.urgentDebt ≤ s.refresh.debt then s.beginRefresh
  else if 1 ≤ s.refresh.debt ∧ s.queuesEmpty = true then s.beginRefresh
  else s.liftHold.testOpportunity

/-- The end of a refresh: the banks go IDLE and the debt falls by 1. Outside ACTIVE the hold stays placed and no
refresh follows (R105, R111). -/
def State.endRefresh (s : State) : State :=
  let s : State :=
    { s with
      banks := s.banks.map BankCtl.toIdle
      refresh := { s.refresh with debt := s.refresh.debt - 1, refreshing := false } }
  match s.refresh.power with
  | .active => s.afterRefresh
  | .entering | .retained | .waking => s.testPlacingStart

/-- REFRESH_END (R105). -/
def execRefreshEnd (s : State) : Host.Outcome State Fault Refusal :=
  whileReleased s (fun s => if s.refresh.refreshing then s.endRefresh else s)

/-! ### Retention (R110 to R115) -/

/-- RETENTION_DECISION (R110). -/
def execRetentionDecision (s : State) : Host.Outcome State Fault Refusal := whileReleased s State.testRetention

/-- RETENTION_PLACING_START (R111). -/
def execRetentionPlacingStart (s : State) : Host.Outcome State Fault Refusal := whileReleased s State.testPlacingStart

/-- Steps 1 and 2 of R112: the cells of the banks outside the mask are LOST, and leave their owners' stamp lists and the
cells a walk has passed (R163). -/
def State.loseCells (mask : BitVec 4) (s : State) : State :=
  let kept := fun (c : CellIx) => mask.getLsbD (bankOf c).val
  { s with
    cells := s.cells.loseOutside mask
    stamps := s.stamps.map (fun l => l.filter kept)
    teardown := s.teardown.map (fun r => r.map (fun r => { r with passed := r.passed.filter kept })) }

/-- A bank in retention: PRESERVED inside the mask, OFF outside it (R112 step 5). -/
def retainedBank (inside : Bool) (k : BankCtl) : BankCtl := { k with state := if inside then .preserved else .off }

/-- Steps 4 and 5 of R112: the debt 0, no vote, the power state RETAINED, the banks PRESERVED or OFF. -/
def State.setRetained (mask : BitVec 4) (s : State) : State :=
  { s with
    banks :=
      ⟨retainedBank (mask.getLsbD 0) s.banks.zero, retainedBank (mask.getLsbD 1) s.banks.one,
       retainedBank (mask.getLsbD 2) s.banks.two, retainedBank (mask.getLsbD 3) s.banks.three⟩
    refresh := { s.refresh with debt := 0, votes := Four.all false, power := .retained, placing := none } }

/-- The placing ends: retention entry is completed in the six steps of R112, and with WAKEs held the exit begins at once
(R114). -/
def State.completeEntry (mask : BitVec 4) (s : State) : State :=
  let lost := s.watchesLost mask
  let s := s.loseCells mask
  let s := lost.foldl (fun s w => s.fireLost w) s
  let s := (s.setRetained mask).raiseAll .retaining
  if s.refresh.heldWakes.isEmpty then s else s.startExit

/-- RETENTION_ENTRY (R112). -/
def execRetentionEntry (s : State) : Host.Outcome State Fault Refusal :=
  whileReleased s (fun s =>
    match s.refresh.power, s.refresh.placing with
    | .entering, some mask => s.completeEntry mask
    | _, _ => s)

/-- Answers every held WAKE OK in the order taken (R115 step 5). -/
def State.answerWakes (s : State) : State :=
  State.replyHeld (responseKind .wake) .ok s.refresh.heldWakes (s.modRefresh (fun r => { r with heldWakes := [] }))

/-- The exit from retention ends, in the six steps of R115. -/
def State.endExit (s : State) : State :=
  let s := (s.modRefresh (fun r => { r with debt := 0 })).beginInterval
  let s := s.liftHold
  let s := s.modRefresh (fun r => { r with power := .active })
  s.answerWakes.raiseAll .awake

/-- RETENTION_EXIT_END (R115). -/
def execRetentionExitEnd (s : State) : Host.Outcome State Fault Refusal :=
  whileReleased s (fun s => if s.refresh.power == .waking then s.endExit else s)

end Sys2Proof.Machine
end

