-- ==== Sys2Proof/Machine/Dispatch.lean ====
section
/-!
DEFINITION. One arm per command: the effect of a command on everything but the queue of waiting commands.
-/
namespace Sys2Proof.Machine

def exec (i : Instr) (s : State) : Host.Outcome State Fault Refusal :=
  match i with
  | .operate p f => Sys2Proof.Machine.execOperate p f s
  | .groupRead p f => Sys2Proof.Machine.execGroupRead p f s
  | .setRecovery p f => Sys2Proof.Machine.execSetRecovery p f s
  | .cancel p f => Sys2Proof.Machine.execCancel p f s
  | .watch p f => Sys2Proof.Machine.execWatch p f s
  | .unwatch p f => Sys2Proof.Machine.execUnwatch p f s
  | .fetchEvents p f => Sys2Proof.Machine.execFetchEvents p f s
  | .attnOn p f => Sys2Proof.Machine.execAttnOn p f s
  | .attnOff p f => Sys2Proof.Machine.execAttnOff p f s
  | .quiesce p f => Sys2Proof.Machine.execQuiesce p f s
  | .wake p f => Sys2Proof.Machine.execWake p f s
  | .writeRegion p f => Sys2Proof.Machine.execWriteRegion p f s
  | .readRegion p f => Sys2Proof.Machine.execReadRegion p f s
  | .writeSettings p f => Sys2Proof.Machine.execWriteSettings p f s
  | .initCells p f => Sys2Proof.Machine.execInitCells p f s
  | .commit p f => Sys2Proof.Machine.execCommit p f s
  | .reopen p f => Sys2Proof.Machine.execReopen p f s
  | .stay p f => Sys2Proof.Machine.execStay p f s
  | .join p f => Sys2Proof.Machine.execJoin p f s
  | .leave p f => Sys2Proof.Machine.execLeave p f s
  | .status p f => Sys2Proof.Machine.execStatus p f s
  | .badKind p code f => Sys2Proof.Machine.execBadKind p code f s
  | .idleFrame p f => Sys2Proof.Machine.execIdleFrame p f s
  | .frameCheck p words => Sys2Proof.Machine.execFrameCheck p words s
  | .linkLoss p => Sys2Proof.Machine.execLinkLoss p s
  | .sendIdle p => Sys2Proof.Machine.execSendIdle p s
  | .responseSent p => Sys2Proof.Machine.execResponseSent p s
  | .deviceReset => Sys2Proof.Machine.execDeviceReset s
  | .resetRelease => Sys2Proof.Machine.execResetRelease s
  | .refreshIntervalExpiry => Sys2Proof.Machine.execRefreshIntervalExpiry s
  | .parkExpiry p t => Sys2Proof.Machine.execParkExpiry p t s
  | .bankPick b => Sys2Proof.Machine.execBankPick b s
  | .rowCloseEnd b => Sys2Proof.Machine.execRowCloseEnd b s
  | .rowOpenEnd b => Sys2Proof.Machine.execRowOpenEnd b s
  | .operateAccess b => Sys2Proof.Machine.execOperateAccess b s
  | .groupReadAccess b => Sys2Proof.Machine.execGroupReadAccess b s
  | .setRecoveryAccess b => Sys2Proof.Machine.execSetRecoveryAccess b s
  | .watchAccess b => Sys2Proof.Machine.execWatchAccess b s
  | .groupWrite b => Sys2Proof.Machine.execGroupWrite b s
  | .recoveryAccess b => Sys2Proof.Machine.execRecoveryAccess b s
  | .teardownWalkStart p => Sys2Proof.Machine.execTeardownWalkStart p s
  | .teardownComplete p => Sys2Proof.Machine.execTeardownComplete p s
  | .stepToRun => Sys2Proof.Machine.execStepToRun s
  | .drainEnd => Sys2Proof.Machine.execDrainEnd s
  | .refreshStart => Sys2Proof.Machine.execRefreshStart s
  | .refreshEnd => Sys2Proof.Machine.execRefreshEnd s
  | .retentionDecision => Sys2Proof.Machine.execRetentionDecision s
  | .retentionPlacingStart => Sys2Proof.Machine.execRetentionPlacingStart s
  | .retentionEntry => Sys2Proof.Machine.execRetentionEntry s
  | .retentionExitEnd => Sys2Proof.Machine.execRetentionExitEnd s

end Sys2Proof.Machine
end

