-- ==== Sys2Proof/Machine/Tick.lean ====
section
/-!
DEFINITION. The passing of 1 µs (DESIGN CHOICE, notes/assumptions/2.md): what `step` does when no command waits. The
part's timers advance, and the happenings that come due join the queue of commands.
-/
namespace Sys2Proof.Machine

/-- The timers of a port's HPU after 1 µs more (R146). -/
def Hpu.tick (h : Hpu) : Hpu := { h with recvTimer := h.recvTimer.map (· + 1), sendTimer := h.sendTimer.map (· + 1) }

/-- The timers of the part after 1 µs more. -/
def State.advance (s : State) : State :=
  { s with
    hpus := s.hpus.map Hpu.tick
    refresh := { s.refresh with timer := s.refresh.timer.map (· - 1) }
    now := s.now + 1 }

/-- Whether a timer that counts up has reached a limit. -/
def reached (timer : Option Nat) (limit : Nat) : Bool :=
  match timer with
  | some t => decide (limit ≤ t)
  | none => false

/-- Whether a parked entry's expiry is taken by a moment: the deadline has passed, and the free delay of at most 1 ms
after it (R46). -/
def expiryDue (now : Nat) (e : ParkEntry) : Bool :=
  match e.deadline with
  | some d => decide (d ≤ now) && decide (d + (Config.expiryDelay e.port e.tag d).val ≤ now)
  | none => false

/-- The happenings whose timers have run out (R46, R102, R148, R149). -/
def State.timedOut (s : State) : List Instr :=
  (allFour.filter (fun p => reached (s.hpu p).recvTimer Config.linkLossMicros)).map Instr.linkLoss ++
    (allFour.filter (fun p => reached (s.hpu p).sendTimer Config.idleMicros)).map Instr.sendIdle ++
    (if s.refresh.timer = some 0 then [Instr.refreshIntervalExpiry] else []) ++
    (s.park.filter (expiryDue s.now)).map (fun e => Instr.parkExpiry e.port e.tag)

/-- Commands that come due together, in the order of the free key (`Config.orderKey`): any order is possible. -/
def inFreeOrder (n : Nat) (due : List Instr) : List Instr :=
  (inKeyOrder (fun x => Config.orderKey n x.2) due.zipIdx).map (·.1)

/-- 1 µs passes with no command waiting. While RESETn is low no timer runs (R174). -/
def State.tick (s : State) : State :=
  if s.resetHigh then
    let s := s.advance
    if s.timedOut.length ≤ 1 then { s with pending := s.timedOut }
    else { s with pending := inFreeOrder s.choices s.timedOut, choices := s.choices + 1 }
  else { s with now := s.now + 1 }

end Sys2Proof.Machine
end

