-- ==== Sys2Proof/Safety.lean ====
section
/-!
DEFINITION. What a safe run keeps, block by block, and the terms in which the statements speak of a command's effect:
when a request is ready for admission, the state in which it is acted on, and the responses handed to a port.
-/
namespace Sys2Proof

/-- The range of an INIT_CELLS lies in the part (R134). -/
def InitFields.fits (i : InitFields) : Prop := 1 ≤ i.count ∧ i.base + i.count ≤ Config.cellCount

end Sys2Proof

namespace Sys2Proof.Machine

/-! ### The terms of the statements -/

/-- A request frame of a kind that reaches check 2 of admission: RESETn is high, the frame has the length of its kind
(R150) and its tag is FREE (R152). -/
structure Ready (k : Kind) (p : Port) (f : Frame) (s : State) : Prop where
  released : s.resetHigh = true
  length : lengthOk k f = true
  tagFree : s.tagState p f.tag = .free

/-- A ready request of a port that is UP while the part is ACTIVE: it passes checks 1 to 4 of R151. -/
structure Accepted (k : Kind) (p : Port) (f : Frame) (s : State) : Prop extends Ready k p f s where
  up : (s.hpu p).port = .up
  active : s.refresh.power = .active

/-- The state in which a request with a FREE tag is acted on: its frame has acted on the link (R148), its tag is
OUTSTANDING (R151), the admission stage is empty, and its port's quiesce vote is gone unless the kind is
QUIESCE, STATUS or FETCH_EVENTS (R109). -/
def State.admitted (keepVote : Bool) (p : Port) (f : Frame) (s : State) : State :=
  { s with
    hpus := s.hpus.set p
      { (s.hpu p).validFrame with tags := (s.hpu p).tags.set f.tag .outstanding, admission := none }
    refresh := { s.refresh with votes := if keepVote then s.refresh.votes else s.refresh.votes.set p false } }

/-- Responses at the end of a port's send list. -/
def State.handed (p : Port) (rs : List Response) (s : State) : State :=
  { s with hpus := s.hpus.set p { s.hpu p with sendList := (s.hpu p).sendList ++ rs } }

/-- A request acted on and answered: what a request does that changes nothing else. -/
def State.answered (k : Kind) (p : Port) (f : Frame) (body : RespBody) (s : State) : State :=
  (s.admitted (keepsVote k) p f).handed p [responseTo k f body]

/-- The work a cell request asks for; none for another kind, or for fields that take no defined value (R172). -/
def requestedWork (k : Kind) (f : Frame) : Option Work :=
  match k with
  | .operate => f.operateFields.map Work.operate
  | .groupRead => some .groupRead
  | .setRecovery => some (.setRecovery f.recoveryField)
  | .watch => f.watchFields.map Work.watch
  | .cancel | .unwatch | .fetchEvents | .attnOn | .attnOff | .quiesce | .wake | .writeRegion | .readRegion => none
  | .writeSettings | .initCells | .commit | .reopen | .stay | .join | .leave | .status => none

/-- Whether a right permits a work (R119, R127): an OPERATE with update NONE and stamp action KEEP, a GROUP_READ and a WATCH
need READ or UPDATE, everything else UPDATE. -/
def workPermitted (w : Work) (r : Right) : Prop :=
  match w with
  | .operate op => if op.upd = .none ∧ op.stamp = .keep then r ≠ .none else r = .update
  | .groupRead | .watch _ => r ≠ .none
  | .setRecovery _ => r = .update
  | .groupWrite _ | .recovery _ _ => True

/-- The conditions of the retention decision (R110). -/
structure RetentionAgreed (s : State) : Prop where
  running : s.config.state = .run
  active : s.refresh.power = .active
  someUp : ∃ p, (s.hpu p).port = .up
  voted : ∀ p, (s.hpu p).port = .up → s.refresh.votes.get p = true
  noneParked : s.park = []
  noTagOut : ∀ p tag, s.tagState p tag = .free
  noneClearing : ∀ p, (s.hpu p).port ≠ .clearing

/-- The numbers a word carries, each as its lowest bit, its width and its value; every bit outside them is 0 (R173). -/
def carries (w : Word) (fields : List (Nat × Nat × Nat)) : Prop :=
  (∀ x ∈ fields, bitsOf w x.1 x.2.1 = x.2.2) ∧
    ∀ i, w.getLsbD i = true → ∃ x ∈ fields, x.1 ≤ i ∧ i < x.1 + x.2.1

/-- A bank performing an access (R90). -/
structure Performing (b : Bank) (a : Access) (s : State) : Prop where
  released : s.resetHigh = true
  onRow : (s.bank b).state = .accessing a.row
  current : (s.bank b).current = some a

/-! ### The cascade as the manual tells it (R48 to R51, R53) -/

/-- The state with a cell LIVE as given: its record whole, and the stamp lists following its owner (R10 to R12, R163). -/
def State.cellLeft (c : CellIx) (value : Word) (owner : Option Port) (recovery : Option Word) (s : State) : State :=
  let before := (s.readCell c).owner
  let list (q : Port) : List CellIx :=
    (if before = some q then (s.stamps.get q).filter (fun x => x != c) else s.stamps.get q) ++
      if owner = some q then [c] else []
  let record (q : Port) : Option TeardownRec :=
    if before = some q then
      (s.teardown.get q).map (fun r => { r with passed := r.passed.filter (fun x => x != c) })
    else s.teardown.get q
  { s with
    cells := s.cells.write c (.live value owner recovery)
    stamps := if before = owner then s.stamps else ⟨list 0, list 1, list 2, list 3⟩
    teardown := if before = owner then s.teardown else ⟨record 0, record 1, record 2, record 3⟩ }

/-- The Park List without an entry (R45). -/
def State.without (e : ParkEntry) (s : State) : State :=
  { s with park := s.park.filter (fun x => !(x.port == e.port && x.tag == e.tag)) }

/-- One evaluation of a parked entry in a pass: the state after it, the responses it makes for the end of the access, and
whether it changed the cell. A false guard keeps the entry and renews its last evaluation (R48); a true one ends it,
refused STAMP_FULL or executed (R49). -/
inductive Evaluates (e : ParkEntry) (s : State) : State → List (Port × Response) → Bool → Prop where
  | stays {v : Word} {o : Option Port} {r : Option Word} (live : s.readCell e.cell = .live v o r)
      (guard : guardHolds e.op e.port v o = false) :
      Evaluates e s
        { s with
          park := s.park.map (fun x =>
            if x.port = e.port ∧ x.tag = e.tag then
              { x with lastValue := v, lastOwner := o, lastFlags := compareFlags v x.op.cmp }
            else x) }
        [] false
  | refused {v : Word} {r : Option Word} (live : s.readCell e.cell = .live v none r)
      (guard : guardHolds e.op e.port v none = true) (stamps : e.op.stamp = .stamp)
      (full : 64 ≤ (s.stamps.get e.port).length) :
      Evaluates e s (s.without e) [(e.port, { kind := 0x81, tag := e.tag, body := .refused .stampFull })] false
  | executes {v : Word} {o : Option Port} {r : Option Word} {owner : Option Port} {changed : Bool}
      (live : s.readCell e.cell = .live v o r) (guard : guardHolds e.op e.port v o = true)
      (room : ¬(e.op.stamp = .stamp ∧ o = none ∧ 64 ≤ (s.stamps.get e.port).length))
      (stamped : owner = match e.op.stamp with
        | .keep => o
        | .stamp => some e.port
        | .unstamp => none)
      (changes : changed = true ↔ applyUpdate e.op.upd v e.op.arg ≠ v ∨ owner ≠ o) :
      Evaluates e s (State.cellLeft e.cell (applyUpdate e.op.upd v e.op.arg) owner r (s.without e))
        [(e.port,
          { kind := 0x81, tag := e.tag,
            body := .operate
              { outcome := .done, old := v, new := applyUpdate e.op.upd v e.op.arg, owner := owner,
                flags := compareFlags v e.op.cmp, wrapped := updateWraps e.op.upd v e.op.arg } })]
        changed

/-- One pass over the entries of a chain, oldest first, its responses in the order made (R48, R51). -/
inductive Passes : List ParkEntry → State → State → List (Port × Response) → Bool → Prop where
  | ended (s : State) : Passes [] s s [] false
  | entry {e : ParkEntry} {rest : List ParkEntry} {s t u : State} {made later : List (Port × Response)} {x y : Bool}
      (first : Evaluates e s t made x) (others : Passes rest t u later y) :
      Passes (e :: rest) s u (made ++ later) (x || y)

/-- Expiries taken after a pass (R53): each ends an entry of the chain whose deadline has passed, answered EXPIRED at
once with its last evaluation (R52). -/
inductive Expires (c : CellIx) : State → State → Prop where
  | done (s : State) (n : Nat) : Expires c s { s with choices := n }
  | one {s t : State} {e : ParkEntry} {d : Nat} (n : Nat) (parked : e ∈ s.park) (chained : e.cell = c)
      (deadline : e.deadline = some d) (passed : d ≤ s.now)
      (later : Expires c
        (State.handAll
          [(e.port,
            { kind := 0x81, tag := e.tag,
              body := .operate
                { outcome := .expired, old := e.lastValue, new := e.lastValue, owner := e.lastOwner, flags := e.lastFlags,
                  wrapped := false } })]
          { s.without e with choices := n }) t) :
      Expires c s t

/-- A cascade over a cell's chain up to the end of some pass, with the responses it has made for the end of the access and
whether it takes another: the first pass follows the opening operation's change, and another one follows a pass in which
an executed entry changed the cell (R50); after each pass overdue entries may expire (R53). -/
inductive CascadeTo (c : CellIx) (s : State) : State → List (Port × Response) → Bool → Prop where
  | opened : CascadeTo c s s [] true
  | pass {t u v : State} {made next : List (Port × Response)} {more : Bool} (before : CascadeTo c s t made true)
      (pass : Passes (t.park.filter (fun e => e.cell == c)) t u next more) (after : Expires c u v) :
      CascadeTo c s v (made ++ next) more

/-- A whole cascade: it ends after a pass in which no executed entry changed the cell (R50). -/
def CascadeRuns (c : CellIx) (s t : State) (made : List (Port × Response)) : Prop := CascadeTo c s t made false

/-- A cascade up to some point inside it: its end, or an entry of some pass (R48, R53, R56), with the entries that pass has
yet to reach and whether it has changed the cell so far. -/
inductive CascadeComesTo (c : CellIx) (s : State) : State → List (Port × Response) → List ParkEntry → Bool → Prop where
  | ended {t : State} {made : List (Port × Response)} (passes : CascadeTo c s t made false) :
      CascadeComesTo c s t made [] false
  | inPass {t u : State} {made next : List (Port × Response)} {reached rest : List ParkEntry} {changed : Bool}
      (before : CascadeTo c s t made true) (chain : t.park.filter (fun e => e.cell == c) = reached ++ rest)
      (pass : Passes reached t u next changed) : CascadeComesTo c s u (made ++ next) rest changed

/-- A cascade goes on from such a point to its end: the rest of the pass over the entries still parked, expiries after it,
and further passes where an executed entry of the pass changed the cell. -/
inductive CascadeGoesOn (c : CellIx) (s : State) (rest : List ParkEntry) (changed : Bool) :
    State → List (Port × Response) → Prop where
  | lastPass {t u : State} {made : List (Port × Response)}
      (pass : Passes (rest.filter (fun e => s.park.any (fun x => x.port == e.port && x.tag == e.tag))) s t made false)
      (unchanged : changed = false) (after : Expires c t u) : CascadeGoesOn c s rest changed u made
  | further {t u v : State} {made later : List (Port × Response)} {x : Bool}
      (pass : Passes (rest.filter (fun e => s.park.any (fun x => x.port == e.port && x.tag == e.tag))) s t made x)
      (more : changed = true ∨ x = true) (after : Expires c t u) (passes : CascadeRuns c u v later) :
      CascadeGoesOn c s rest changed v (made ++ later)

/-! ### Accesses that change their cell, and what falls inside them (R29, R47, R56, R58, R90, R165, R166) -/

/-- The opening operation of an access that changes its cell, with the response it makes for the end of the access: an
OPERATE that executes and changes value or owner (R25 to R30), a creating OPERATE (R7), a recovery access whose port
still owns the cell (R165). -/
inductive Opens (a : Access) (s : State) : State → List (Port × Response) → Prop where
  | executes {op : OpFields} {tag : Tag} {v : Word} {o owner : Option Port} {r : Option Word}
      (work : a.work = .operate op) (tagged : a.tag = some tag) (live : s.readCell a.cell = .live v o r)
      (guard : guardHolds op a.port v o = true)
      (room : op.stamp = .stamp → o = none → (s.stamps.get a.port).length < 64)
      (stamped : owner = match op.stamp with
        | .keep => o
        | .stamp => some a.port
        | .unstamp => none)
      (changes : applyUpdate op.upd v op.arg ≠ v ∨ owner ≠ o) :
      Opens a s (State.cellLeft a.cell (applyUpdate op.upd v op.arg) owner r s)
        [(a.port,
          { kind := 0x81, tag := tag,
            body := .operate
              { outcome := .done, old := v, new := applyUpdate op.upd v op.arg, owner := owner,
                flags := compareFlags v op.cmp, wrapped := updateWraps op.upd v op.arg } })]
  | creates {op : OpFields} {tag : Tag} {owner : Option Port} (work : a.work = .operate op) (tagged : a.tag = some tag)
      (unset : s.readCell a.cell = .void ∨ s.readCell a.cell = .lost) (pred : op.pred = .always) (own : op.own = .any)
      (upd : op.upd = .set)
      (stamped : op.stamp = .keep ∧ owner = none ∨
        op.stamp = .stamp ∧ owner = some a.port ∧ (s.stamps.get a.port).length < 64) :
      Opens a s (State.cellLeft a.cell op.arg owner none s)
        [(a.port,
          { kind := 0x81, tag := tag,
            body := .operate
              { outcome := .done, old := 0, new := op.arg, owner := owner, flags := compareFlags 0 op.cmp,
                wrapped := false } })]
  | recovers {policy : LossPolicy} {default : Option Word} {v : Word} {r : Option Word}
      (work : a.work = .recovery policy default) (live : s.readCell a.cell = .live v (some a.port) r) :
      Opens a s (State.cellLeft a.cell (if policy = .restore then r.getD (default.getD v) else v) none r s) []

/-- What follows the cascade of an access that changed its cell (R34, R51, R67, R90, R166): its responses are handed, the
cell's watches are evaluated once, a recovery access is counted and its walk goes on, and the access ends. -/
def State.closedBy (b : Bank) (a : Access) (answers : List (Port × Response)) (left : State) : State :=
  let watched := State.evalWatches a.cell (State.handAll answers left)
  State.finishAccess b
    (match a.work with
      | .recovery policy _ =>
        State.walk a.port
          { watched with
            teardown := watched.teardown.set a.port
              ((watched.teardown.get a.port).map (fun rec =>
                { rec with
                  restored := if policy = .restore then rec.restored + 1 else rec.restored
                  released := if policy = .release then rec.released + 1 else rec.released })) }
      | .operate _ | .groupRead | .setRecovery _ | .watch _ | .groupWrite _ => watched)

/-- No bank is performing an access that changes the cell of a parked entry: none to that cell, or one that leaves it as it
is (R57). -/
def State.NotInChange (e : ParkEntry) (s : State) : Prop :=
  ∀ b row a u made, (s.bank b).state = .accessing row → (s.bank b).current = some a → a.cell = e.cell →
    ¬Opens a s u made

/-- Accesses in progress come along, one after the other, each to some point of its cascade (R56, R58, R162): each one
changes its cell, and the cell is one that the happening claims an entry on. -/
inductive ComeAlong (claimed : CellIx → Prop) : List Underway → State → State → Prop where
  | ended (s : State) (n : Nat) : ComeAlong claimed [] s { s with choices := n }
  | begins {s u v t : State} {b : Bank} {row : Nat} {a : Access} {opening next : List (Port × Response)}
      {rest : List ParkEntry} {changed : Bool} {others : List Underway} (n : Nat)
      (onRow : (s.bank b).state = .accessing row) (current : (s.bank b).current = some a) (cell : claimed a.cell)
      (opens : Opens a { s with choices := n } u opening) (comes : CascadeComesTo a.cell u v next rest changed)
      (later : ComeAlong claimed others v t) :
      ComeAlong claimed
        ({ bank := b, access := a, answers := opening ++ next, changed := changed, rest := rest } :: others) s t

/-- Such accesses go on to their ends, one after the other. -/
inductive GoOn : List Underway → State → State → Prop where
  | ended (s : State) : GoOn [] s s
  | goes {s u t : State} {x : Underway} {others : List Underway} {later : List (Port × Response)}
      (cascade : CascadeGoesOn x.access.cell s x.rest x.changed u later)
      (after : GoOn others (State.closedBy x.bank x.access (x.answers ++ later) u) t) : GoOn (x :: others) s t

/-! ### What falls together with a happening (R74, R85, R103, R141 to R145, R161, R162) -/

/-- At least one port is UP, and every UP port meets a test: a quorum (R141, R144). -/
def State.Agreed (test : Port → Prop) (s : State) : Prop :=
  (∃ p, (s.hpu p).port = .up) ∧ ∀ p, (s.hpu p).port = .up → test p

/-- The Configuration Controller's test: the commit decision, the step to RUN, the reopen decision or the end of the drain
where it is due, and otherwise nothing (R141, R142, R144, R145). -/
inductive Decides (s : State) : State → Prop where
  | overlaps {i j : Nat} (state : s.config.state = .setup)
      (agreed : s.Agreed (fun p => s.config.commits.get p = some s.table.generation))
      (overlap : s.table.overlapPair = some (i, j)) :
      Decides s
        (State.replyHeld 0x90 (.overlap i j) s.config.heldCommits
          { s with config := { s.config with commits := Four.all none, heldCommits := [] } })
  | commits {t : State} (state : s.config.state = .setup)
      (agreed : s.Agreed (fun p => s.config.commits.get p = some s.table.generation))
      (apart : s.table.overlapPair = none)
      (run : exec .stepToRun { s with config := { s.config with state := .committing } } = .next t) : Decides s t
  | runs {t : State} (state : s.config.state = .committing) (run : exec .stepToRun s = .next t) : Decides s t
  | reopens {t : State} (state : s.config.state = .run) (agreed : s.Agreed (fun p => s.config.reopenVotes.get p = true))
      (drain : exec .drainEnd { s with config := { s.config with state := .draining } } = .next t) : Decides s t
  | drains {t : State} (state : s.config.state = .draining) (drain : exec .drainEnd s = .next t) : Decides s t
  | waits
      (open_ : s.config.state = .setup ∧ ¬s.Agreed (fun p => s.config.commits.get p = some s.table.generation) ∨
        s.config.state = .run ∧ ¬s.Agreed (fun p => s.config.reopenVotes.get p = true)) : Decides s s

/-- The conditions of an opportunistic refresh (R103). -/
def State.Opportunity (s : State) : Prop :=
  s.refresh.power = .active ∧ 1 ≤ s.refresh.debt ∧ s.refresh.hold = false ∧
    ∀ b, (s.bank b).queue = [] ∧ (s.bank b).current = none

/-- The test for an opportunistic refresh (R96, R97, R103): under its conditions the hold is placed, each READY bank begins
to close its row, and with every bank IDLE the refresh begins at once. -/
inductive RefreshTested (s : State) : State → Prop where
  | rests (no : ¬s.Opportunity) : RefreshTested s s
  | places (due : s.Opportunity) (busy : (∃ b, (s.bank b).state ≠ .idle) ∨ s.refresh.refreshing = true) :
      RefreshTested s
        { s with
          banks := s.banks.map (fun k =>
            match k.state with
            | .ready row => { k with state := .closing row }
            | _ => k)
          refresh := { s.refresh with hold := true } }
  | begins (due : s.Opportunity) (closed : ∀ b, (s.bank b).state = .idle) (free : s.refresh.refreshing = false) :
      RefreshTested s
        { s with
          banks := s.banks.map (fun k => { k with state := .refreshing })
          refresh := { s.refresh with hold := true, refreshing := true } }

/-- Acts taken one after the other, each as its row or its test takes it: one that is not due leaves the state. -/
inductive Taken : List Act → State → State → Prop where
  | ended (s : State) : Taken [] s s
  | walk {s t u : State} {p : Port} {acts : List Act} (start : exec (.teardownWalkStart p) s = .next t)
      (later : Taken acts t u) : Taken (.walk p :: acts) s u
  | config {s t u : State} {acts : List Act} (decides : Decides s t) (later : Taken acts t u) : Taken (.config :: acts) s u
  | refresh {s t u : State} {acts : List Act} (tested : RefreshTested s t) (later : Taken acts t u) :
      Taken (.refresh :: acts) s u

/-- What falls together with a happening: the starts of the ports' walks, the configuration's decision and the opportunistic
refresh, each where it is due, in some order. -/
def State.FallsTo (s t : State) : Prop :=
  ∃ n acts, acts.Perm [.walk 0, .walk 1, .walk 2, .walk 3, .config, .refresh] ∧ Taken acts { s with choices := n } t

/-- What a bank becomes when an access joins the end of its queue with bypass count 0 (R85, R89): with the hold placed, a
current access, or a bank neither READY nor IDLE the access waits there; a free bank with an empty queue picks it. -/
structure Joins (hold : Bool) (a : Access) (k after : BankCtl) : Prop where
  waits : hold = true ∨ k.current ≠ none ∨ (∀ row, k.state ≠ .ready row) ∧ k.state ≠ .idle →
    after = { k with queue := k.queue ++ [a] }
  idle : hold = false → k = { state := .idle, current := none, queue := [] } →
    after = { state := .opening a.row, current := some a, queue := [] }
  ready : ∀ row, hold = false → k = { state := .ready row, current := none, queue := [] } →
    after = { state := if row = a.row then .accessing row else .closing row, current := some a, queue := [] }
  joined : a ∈ after.queue ++ after.current.toList

/-! ### The Cell Store: canonical form, and no cell outside the part -/

/-- An access addresses a cell of the part, and a group write's range lies in it (R4, R134). -/
def Access.inPart (a : Access) : Prop :=
  a.cell < Config.cellCount ∧ ∀ i, a.work = .groupWrite i → i.fits

/-- The Cell Store is in its canonical form, and every cell the part holds an index of is a cell it has. -/
structure State.CellsOk (s : State) : Prop where
  canonical : s.cells.wf = true
  queued : ∀ b, ∀ a ∈ (s.bank b).queue, a.inPart
  current : ∀ b, ∀ a ∈ (s.bank b).current.toList, a.inPart
  parked : ∀ e ∈ s.park, e.cell < Config.cellCount
  stamped : ∀ p, ∀ c ∈ s.stamps.get p, c < Config.cellCount
  flights : ∀ i ∈ s.config.inits, i.init.fits

/-! ### Stamp lists (R10) -/

/-- Each stamp list holds exactly the cells its port owns, each once, and at most 64 (R10). -/
structure State.StampsOk (s : State) : Prop where
  owners : ∀ p c, c ∈ s.stamps.get p ↔ (s.readCell c).owner = some p
  once : ∀ p, (s.stamps.get p).Nodup
  bound : ∀ p, (s.stamps.get p).length ≤ Config.stampCapacity

/-! ### The bounded tables (R41, R63, R74, R102, R119) -/

/-- The Park List, the Watch Table, the event queues, the refresh debt and the Region Table keep their sizes, and watch
ids rise strictly through the table and stay below 32. -/
structure State.TablesOk (s : State) : Prop where
  park : s.park.length ≤ Config.parkCapacity
  watches : s.watches.length ≤ Config.watchCapacity
  watchesOfPort : ∀ p, s.watchCount p ≤ Config.watchCapacityPerPort
  watchIds : s.watches.Pairwise (fun v w => v.id < w.id) ∧ ∀ w ∈ s.watches, w.id < Config.watchCapacity
  events : ∀ p, (s.eventPort p).queue.length ≤ Config.eventCapacity
  debt : s.refresh.debt ≤ Config.debtCap
  regions : s.table.entries.length = regionCount

/-! ### Bank queues (R84, R88) -/

/-- In every bank queue no entry has a greater bypass count than an older one, no count exceeds 4, and every entry's cell
is a cell of the bank (R84, R88). -/
structure BankCtl.queueOk (b : Bank) (k : BankCtl) : Prop where
  falling : k.queue.Pairwise (fun older younger => younger.bypass ≤ older.bypass)
  bound : ∀ a ∈ k.queue, a.bypass ≤ Config.bypassCap
  bank : (∀ a ∈ k.queue, bankOf a.cell = b) ∧ ∀ a ∈ k.current.toList, bankOf a.cell = b

/-- Every bank queue is in order (R84, R88). -/
def State.QueuesOk (s : State) : Prop := ∀ b, (s.bank b).queueOk b

/-! ### Banks, hold and power state (R83, R96, R97, R105, R111, R113) -/

/-- The current access of a bank in each bank state (R83): present in OPENING and ACCESSING with its row, either way
in CLOSING, absent in the others. -/
def BankCtl.shapeOk (k : BankCtl) : Prop :=
  match k.state with
  | .opening row => ∃ a, k.current = some a ∧ a.row = row
  | .accessing row => ∃ a, k.current = some a ∧ a.row = row
  | .closing _ => True
  | .idle => k.current = none
  | .ready _ => k.current = none
  | .refreshing => k.current = none
  | .preserved => k.current = none
  | .off => k.current = none

/-- A bank in retention (R112). -/
def BankCtl.retained (k : BankCtl) : Prop := k.state = .preserved ∨ k.state = .off

/-- The banks agree with the hold, the refresh in progress and the power state. -/
structure State.BanksOk (s : State) : Prop where
  shapes : ∀ b, (s.bank b).shapeOk
  heldClosing : s.refresh.hold = true → ∀ b row, (s.bank b).state ≠ .ready row
  holdNeeded : s.refresh.hold = false → s.refresh.refreshing = false ∧ s.refresh.power = .active
  refreshing : ∀ b, (s.bank b).state = .refreshing ↔ s.refresh.refreshing = true
  awake : s.refresh.power = .active ∨ s.refresh.power = .entering → ∀ b, ¬(s.bank b).retained
  asleep : s.refresh.power = .retained ∨ s.refresh.power = .waking →
    (∀ b, (s.bank b).retained) ∧ s.refresh.debt = 0
  placing : s.refresh.placing.isSome = true →
    s.refresh.power = .entering ∧ ∀ b, (s.bank b).state = .idle

/-! ### Ports (R41, R63, R77, R82, R146, R147, R159) -/

/-- A port that is not UP has nothing in the Park List, the Watch Table or its event queue, attention off, and no vote or
held request (R41, R63, R77, R80, R109, R140, R143). -/
structure State.Absent (p : Port) (s : State) : Prop where
  park : ∀ e ∈ s.park, e.port ≠ p
  watches : ∀ w ∈ s.watches, w.port ≠ p
  events : (s.eventPort p).queue = []
  attention : (s.eventPort p).attention = false
  votes : s.refresh.votes.get p = false ∧ s.config.reopenVotes.get p = false ∧ s.config.commits.get p = none
  heldRequests : ∀ x ∈ s.refresh.heldWakes ++ s.config.heldCommits ++ s.config.heldReopens, x.1 ≠ p

/-- Link state, port state, timers, held JOIN and teardown record of a port agree (R146 to R149, R156, R159). -/
structure State.PortOk (p : Port) (s : State) : Prop where
  down : (s.hpu p).port = .down → (s.hpu p).link = .dead
  linked : (s.hpu p).port = .linked → (s.hpu p).link = .alive
  up : (s.hpu p).port = .up → (s.hpu p).link = .alive
  dead : (s.hpu p).link = .dead →
    (s.hpu p).recvTimer = none ∧ (s.hpu p).sendTimer = none ∧ (s.hpu p).sendList = []
  alive : (s.hpu p).link = .alive → (s.hpu p).recvTimer.isSome = true ∧ (s.hpu p).sendTimer.isSome = true
  heldJoin : (s.hpu p).heldJoin.isSome = true → (s.hpu p).port = .clearing ∧ (s.hpu p).link = .alive
  record : (s.teardown.get p).isSome = true ↔ (s.hpu p).port = .clearing
  absent : (s.hpu p).port ≠ .up → s.Absent p

/-- Every port's state agrees with the rest of the part. -/
def State.PortsOk (s : State) : Prop := ∀ p, s.PortOk p

/-! ### Tags and what waits for its response (R41, R84, R86, R135, R146, R152, R159) -/

/-- Every entry of the four bank queues and every current access. -/
def State.accesses (s : State) : List Access :=
  allFour.flatMap (fun b => (s.bank b).queue ++ (s.bank b).current.toList)

/-- The port and tag of the request an access performs. -/
def Access.request (a : Access) : Option (Port × Tag) := a.tag.map (fun t => (a.port, t))

/-- The group writes queued or current, by the port and tag of their INIT_CELLS. -/
def State.groupWrites (s : State) : List (Port × Tag) := (s.accesses.filter Access.isGroupWrite).filterMap Access.request

/-- The ports of the recovery accesses queued or current. -/
def State.recoveries (s : State) : List Port := (s.accesses.filter (fun a => !a.isHost)).map (fun a => a.port)

/-- What is to be answered, by port and tag: parked operations, cell requests queued or current, INIT_CELLS in flight, held
requests, and responses not yet sent. Of a port that is not UP a current access and its INIT_CELLS are left out: they
end without a response (R138, R154). -/
def State.openRequests (s : State) : List (Port × Tag) :=
  s.park.map (fun e => (e.port, e.tag)) ++
    (s.accesses.filter (fun a => a.isHost && !a.isGroupWrite && s.isUp a.port)).filterMap Access.request ++
    (s.config.inits.filter (fun i => s.isUp i.port)).map (fun i => (i.port, i.tag)) ++
    (s.config.heldCommits ++ s.config.heldReopens ++ s.refresh.heldWakes) ++
    allFour.filterMap (fun p => (s.hpu p).heldJoin.map (fun t => (p, t))) ++
    allFour.flatMap (fun p => (s.hpu p).sendList.map (fun r => (p, r.tag)))

/-- What is to be answered has its tag OUTSTANDING, and no two of its members share port and tag. INIT_CELLS in flight and
their group writes agree one to one. No access of a lost port is queued, and one it left in progress is awaited by its
teardown; a recovery access belongs to a port whose teardown is RECOVERING, one for each. -/
structure State.TagsOk (s : State) : Prop where
  outstanding : ∀ x ∈ s.openRequests, s.tagState x.1 x.2 = .outstanding
  once : s.openRequests.Nodup
  flights : s.groupWrites.Perm (s.config.inits.map (fun i => (i.port, i.tag))) ∧ s.groupWrites.Nodup
  queued : ∀ b, ∀ a ∈ (s.bank b).queue, a.isHost = true → (s.hpu a.port).port = .up
  left : ∀ b, ∀ a ∈ (s.bank b).current.toList, a.isHost = true → (s.hpu a.port).port ≠ .up →
    ∃ r, s.teardown.get a.port = some r ∧ r.phase = .awaiting ∧ r.awaited.get b = true
  recovering : ∀ p ∈ s.recoveries, ∃ r, s.teardown.get p = some r ∧ r.phase = .recovering
  oneRecovery : s.recoveries.Nodup

end Sys2Proof.Machine
end

