-- ==== Sys2Proof/WellFormed.lean ====
section
/-!
DEFINITION. Which commands are well formed: the checks a term of `Instr` must pass to stand for a happening of
its row. Every other number a command carries is bounded by its type.
-/
namespace Sys2Proof

/-- A BAD_KIND names a kind the part does not take from a host (R171), a FRAME_CHECK carries words that fail the
frame check (R150). -/
def Instr.wf : Instr → Bool
  | .badKind _ code _ => unknownKind code
  | .frameCheck _ words => !frameCheckOk words
  | .operate _ _ | .groupRead _ _ | .setRecovery _ _ | .cancel _ _ | .watch _ _ | .unwatch _ _ => true
  | .fetchEvents _ _ | .attnOn _ _ | .attnOff _ _ | .quiesce _ _ | .wake _ _ => true
  | .writeRegion _ _ | .readRegion _ _ | .writeSettings _ _ | .initCells _ _ => true
  | .commit _ _ | .reopen _ _ | .stay _ _ | .join _ _ | .leave _ _ | .status _ _ | .idleFrame _ _ => true
  | .linkLoss _ | .sendIdle _ | .responseSent _ | .deviceReset | .resetRelease => true
  | .refreshIntervalExpiry | .parkExpiry _ _ | .bankPick _ | .rowCloseEnd _ | .rowOpenEnd _ => true
  | .operateAccess _ | .groupReadAccess _ | .setRecoveryAccess _ | .watchAccess _ => true
  | .groupWrite _ | .recoveryAccess _ | .teardownWalkStart _ | .teardownComplete _ => true
  | .stepToRun | .drainEnd | .refreshStart | .refreshEnd | .retentionDecision => true
  | .retentionPlacingStart | .retentionEntry | .retentionExitEnd => true

end Sys2Proof
end

