-- ==== Sys2Proof/Certificates/Slice0/Obligations.lean ====
section
/-!
DEFINITION. The statements for the provers. Those that say what a command does give the whole next state, so that what they
do not name is unchanged.
-/
open Sys2Proof Sys2Proof.Machine

/-! ### The step and the queue of commands -/

/-- The model's own queue (notes/assumptions/1.md): a step takes the command at the front and executes it with the
queue's rest. -/
def Obligations.StepTakesTheFrontCommand : Prop :=
  ∀ (c : Instr) (rest : List Instr) (s : State),
    step { s with pending := c :: rest } = exec c { s with pending := rest }

/-- The model's choice: every command answers a next state, since the manual names nothing that stops the part
(notes/assumptions/21.md), and a command whose condition does not stand leaves the state (notes/assumptions/7.md); none
touches the model's queue of waiting commands (notes/assumptions/1.md). -/
def Obligations.EveryCommandCompletesAndKeepsTheQueue : Prop :=
  ∀ (c : Instr) (s : State), ∃ t, exec c s = .next t ∧ t.pending = s.pending

/-- The model's passing of time (notes/assumptions/2.md): with no command waiting and RESETn high, 1 µs passes. Every timer
advances, nothing else of the part changes, and the commands that join the queue are exactly the happenings whose
timers ran out: LINK_LOSS at 400 µs (R148), SEND_IDLE at 100 µs (R149), REFRESH_INTERVAL_EXPIRY (R102) and, for a parked
entry, PARK_EXPIRY once its deadline and the free delay have passed (R46). -/
def Obligations.IdleStepPassesOneMicrosecond : Prop :=
  ∀ s : State, s.pending = [] → s.resetHigh = true →
    ∃ n queue,
      step s = .next
        { s with
          hpus := s.hpus.map (fun h =>
            { h with recvTimer := h.recvTimer.map (· + 1), sendTimer := h.sendTimer.map (· + 1) })
          refresh := { s.refresh with timer := s.refresh.timer.map (· - 1) }
          now := s.now + 1, choices := n, pending := queue } ∧
      ∀ c, c ∈ queue ↔
        (∃ p u, c = .linkLoss p ∧ (s.hpu p).recvTimer = some u ∧ 400 ≤ u + 1) ∨
        (∃ p u, c = .sendIdle p ∧ (s.hpu p).sendTimer = some u ∧ 100 ≤ u + 1) ∨
        (∃ u, c = .refreshIntervalExpiry ∧ s.refresh.timer = some u ∧ u ≤ 1) ∨
        (∃ e ∈ s.park, ∃ d, c = .parkExpiry e.port e.tag ∧ e.deadline = some d ∧
          d + (Config.expiryDelay e.port e.tag d).val ≤ s.now + 1)

/-! ### Device reset (R16, R60, R73, R82, R100, R101, R120, R121, R131, R146, R159, R174) -/

/-- DEVICE_RESET, whatever was in progress: every block takes its reset state. The timer stands still until RESETn goes high
(R174; that it stands still, and that RESETn stays low until RESET_RELEASE, is the model's reading, notes/assumptions/15.md).
That the pin carries no frame then, `lastSent`, is the model's choice (notes/assumptions/16.md).
RESET_RELEASE (R101, R174): RESETn goes high and the interval timer begins its first interval; from device reset the part
then stands as `State.reset`, but for the model's own clock, counter and queue.
R174: while RESETn is low no frame is taken and nothing happens in the part. -/
def Obligations.DeviceResetAndItsRelease : Prop :=
  (∀ s : State, ∃ t, exec .deviceReset s = .next t ∧
     (∀ c, t.readCell c = .void) ∧ (∀ p, t.stamps.get p = []) ∧ t.park = [] ∧ t.watches = [] ∧
     (∀ p, t.eventPort p = { queue := [], seq := 0, attention := false }) ∧
     (∀ p, t.hpu p =
       { link := .dead, port := .down, recvTimer := none, sendTimer := none, tags := Eight.all .free, admission := none,
         sendList := [], heldJoin := none, lastSent := none }) ∧
     (∀ b, t.bank b = { state := .idle, current := none, queue := [] }) ∧
     t.table.entries = List.replicate 16
       { valid := false, base := 0, length := 1, rights := Four.all Right.none, policy := .release, default := 0 } ∧
     t.table.settings = { interval := 6, page := .opened, mask := 0xF } ∧ t.table.generation = 0 ∧
     t.config =
       { state := .setup, commits := Four.all none, heldCommits := [], reopenVotes := Four.all false, heldReopens := [],
         inits := [] } ∧
     t.refresh =
       { timer := none, debt := 0, overrun := false, overrunRaised := false, power := .active, votes := Four.all false,
         heldWakes := [], hold := false, refreshing := false, placing := none } ∧
     (∀ p, t.teardown.get p = none) ∧ (∀ p, t.atn p = false) ∧ t.resetHigh = false) ∧
  ((∀ s : State, s.resetHigh = false →
     exec .resetRelease s = .next
       { s with resetHigh := true, refresh := { s.refresh with timer := some s.table.settings.interval } }) ∧
   ∀ s t : State, exec .deviceReset s = .next t →
     exec .resetRelease t = .next { State.reset with now := s.now, choices := s.choices, pending := s.pending }) ∧
  ∀ (c : Instr) (s : State), s.resetHigh = false → c ≠ .deviceReset → c ≠ .resetRelease → exec c s = .next s

/-! ### Frames on the link (R148 to R150, R171) -/

/-- The words the part's header layout and check word give to a command's frame (11, 11.1) are read back as that command:
a request of each of the 21 kinds, a frame of unknown kind, an idle frame.
R150 step 1 and R171: words that fail the frame check are FRAME_CHECK, and whatever words arrive, the command they are
read as is a well-formed one. -/
def Obligations.FramesAreReadAsTheirCommands : Prop :=
  (∀ (p : Port) (f : Frame),
     (∀ k : Kind, decodeFrame p (frameWords k.code f) = requestOf k p f) ∧
     (∀ code : Byte, unknownKind code = true → decodeFrame p (frameWords code f) = .badKind p code f) ∧
     decodeFrame p (frameWords 0 f) = .idleFrame p f) ∧
  (∀ (p : Port) (words : List Word),
     (decodeFrame p words).wf = true ∧ (frameCheckOk words = false → decodeFrame p words = .frameCheck p words))

/-- The fields of the request payloads are read at the bits 11.2 gives them, with its codes (R172, R17, R63, R119, R121,
R134): of OPERATE, WATCH, WRITE_REGION, WRITE_SETTINGS and INIT_CELLS when each takes a value its kind defines, and of the
others whatever the bits. A recovery value is read only when its presence bit is set, and a CHANGE watch reads no
operand. -/
def Obligations.FieldsAreReadAtTheirBits : Prop :=
  (∀ (w : Word) (lo len : Nat), bitsOf w lo len = w.toNat / 2 ^ lo % 2 ^ len) ∧
  let preds : List Pred := [.always, .eq, .ne, .lt, .le, .gt, .ge, .ult, .ule, .ugt, .uge]
  ∀ f : Frame,
    (∀ n, 1 ≤ n → n ≤ f.payload.length → f.payload[n - 1]? = some (f.word n)) ∧
    f.cell = bitsOf (f.word 1) 0 16 ∧ f.targetTag.val = bitsOf (f.word 1) 0 3 ∧ f.lowByte = bitsOf (f.word 1) 0 8 ∧
    f.generationField.toNat = bitsOf (f.word 1) 0 16 ∧
    (∀ x, f.recoveryField = some x ↔ bitsOf (f.word 1) 16 1 = 1 ∧ x = f.word 2) ∧
    (∀ op : OpFields, f.operateFields = some op ↔
      preds[bitsOf (f.word 1) 16 4]? = some op.pred ∧
      [OwnCond.any, .none, .mine, .notMine][bitsOf (f.word 1) 20 2]? = some op.own ∧
      [Update.none, .set, .add, .sub, .and, .or, .xor, .max, .min][bitsOf (f.word 1) 22 4]? = some op.upd ∧
      [StampAct.keep, .stamp, .unstamp][bitsOf (f.word 1) 26 2]? = some op.stamp ∧
      op.cmp = f.word 2 ∧ op.arg = f.word 3 ∧ op.patience = bitsOf (f.word 4) 0 16) ∧
    (∀ x : WatchFields, f.watchFields = some x ↔
      (bitsOf (f.word 1) 16 4 = 11 ∧ x.trigger = .change ∨
        ∃ q, preds[bitsOf (f.word 1) 16 4]? = some q ∧ x.trigger = .pred q (f.word 2)) ∧
      (x.mode = .repeating ↔ bitsOf (f.word 1) 20 1 = 1) ∧ (x.reportNow = true ↔ bitsOf (f.word 1) 21 1 = 1)) ∧
    (∀ e : RegionEntry, f.regionFields = some e ↔
      (e.valid = true ↔ bitsOf (f.word 1) 8 1 = 1) ∧
      [LossPolicy.restore, .release, .hold][bitsOf (f.word 1) 9 2]? = some e.policy ∧
      (∀ p : Port, [Right.none, .read, .update][bitsOf (f.word 1) (16 + 2 * p.val) 2]? = some (e.rights.get p)) ∧
      e.base = bitsOf (f.word 2) 0 16 ∧ e.length = bitsOf (f.word 3) 0 17 ∧ 1 ≤ e.length ∧ e.base + e.length ≤ 65536 ∧
      e.default = f.word 4) ∧
    (∀ x : Settings, f.settingsFields = some x ↔
      x.interval = bitsOf (f.word 1) 0 8 ∧ 2 ≤ x.interval ∧ x.interval ≤ 12 ∧
      [PagePolicy.opened, .closed][bitsOf (f.word 1) 8 2]? = some x.page ∧
      ∀ b : Bank, (x.mask.getLsbD b.val = true ↔ bitsOf (f.word 1) (16 + b.val) 1 = 1)) ∧
    ∀ i : InitFields, f.initFields = some i ↔
      i.base = bitsOf (f.word 1) 0 16 ∧ i.count = bitsOf (f.word 2) 0 17 ∧ 1 ≤ i.count ∧ i.base + i.count ≤ 65536 ∧
      i.value = f.word 3 ∧ i.recovery = if bitsOf (f.word 1) 16 1 = 1 then some (f.word 4) else none

/-- IDLE_FRAME without payload (R148, R149): it acts on the link alone. On an ALIVE link the receive timer goes back to
zero; on a DEAD one the link goes ALIVE, both timers start from zero, and a port in DOWN goes LINKED.
FRAME_CHECK (R150 step 1, R75 to R78): the frame is discarded, the link does not see it, and an UP port takes PORT_FAULT
FRAME_CHECK with no tag and no kind, numbered by its counter; with 16 records queued the number alone is consumed. -/
def Obligations.IdleAndDamagedFrames : Prop :=
  (∀ (p : Port) (f : Frame) (s : State), s.resetHigh = true → f.length = 0 → f.payload = [] →
     ((s.hpu p).link = .alive →
       exec (.idleFrame p f) s = .next { s with hpus := s.hpus.set p { s.hpu p with recvTimer := some 0 } }) ∧
     ((s.hpu p).link = .dead →
       exec (.idleFrame p f) s = .next
         { s with
           hpus := s.hpus.set p
             { s.hpu p with
               link := .alive, recvTimer := some 0, sendTimer := some 0
               port := if (s.hpu p).port = .down then .linked else (s.hpu p).port } })) ∧
  (∀ (p : Port) (words : List Word) (s : State), s.resetHigh = true → frameCheckOk words = false →
     ((s.hpu p).port = .up → (s.eventPort p).queue.length < 16 →
       exec (.frameCheck p words) s = .next
         { s with
           events := s.events.set p
             { s.eventPort p with
               queue := (s.eventPort p).queue ++
                 [{ seq := (s.eventPort p).seq, event := .portFault .frameCheck none none }]
               seq := (s.eventPort p).seq + 1 } }) ∧
     ((s.hpu p).port = .up → 16 ≤ (s.eventPort p).queue.length →
       exec (.frameCheck p words) s = .next
         { s with events := s.events.set p { s.eventPort p with seq := (s.eventPort p).seq + 1 } }) ∧
     ((s.hpu p).port ≠ .up → exec (.frameCheck p words) s = .next s))

/-- R150 step 2: a valid frame of a wrong length acts on the link, is discarded, and raises PORT_FAULT FRAME_LENGTH with the
tag and kind of its header. No tag, vote or response.
R152: a request whose tag is OUTSTANDING is discarded with PORT_FAULT TAG_IN_USE, the kind code as received; no tag, vote
or response changes.
BAD_KIND (R151 check 2, R152, R171): a frame of unknown kind with a FREE tag is answered BAD_KIND with kind FFh and has no
other effect than an admission's. -/
def Obligations.FaultyFramesAreDiscardedOrRefused : Prop :=
  (∀ (p : Port) (f : Frame) (s : State), s.resetHigh = true →
     let live : State := { s with hpus := s.hpus.set p (s.hpu p).validFrame }
     (∀ k : Kind, f.length.toNat ≠ f.payload.length ∨ f.payload.length ≠ k.payloadWords →
       exec (requestOf k p f) s = .next (live.raise p (.portFault .frameLength (some f.tag) (some k.code)))) ∧
     (∀ code : Byte, unknownKind code = true → f.length.toNat ≠ f.payload.length →
       exec (.badKind p code f) s = .next (live.raise p (.portFault .frameLength (some f.tag) (some code)))) ∧
     (f.length ≠ 0 ∨ f.payload ≠ [] →
       exec (.idleFrame p f) s = .next (live.raise p (.portFault .frameLength (some f.tag) (some 0))))) ∧
  (∀ (p : Port) (f : Frame) (s : State), s.resetHigh = true → s.tagState p f.tag = .outstanding →
     let live : State := { s with hpus := s.hpus.set p { (s.hpu p).validFrame with admission := none } }
     (∀ k : Kind, lengthOk k f = true →
       exec (requestOf k p f) s = .next (live.raise p (.portFault .tagInUse (some f.tag) (some k.code)))) ∧
     (∀ code : Byte, unknownKind code = true → f.length.toNat = f.payload.length →
       exec (.badKind p code f) s = .next (live.raise p (.portFault .tagInUse (some f.tag) (some code))))) ∧
  ∀ (p : Port) (code : Byte) (f : Frame) (s : State), s.resetHigh = true → unknownKind code = true →
    f.length.toNat = f.payload.length → s.tagState p f.tag = .free →
    exec (.badKind p code f) s = .next
      ((s.admitted false p f).handed p [{ kind := 0xFF, tag := f.tag, body := .refused .badKind }])

/-! ### Admission (R151 to R153, R107, R133, R127, R172) -/

/-- R153, with R107 and R133 for JOIN and STATUS: in LINKED and CLEARING every kind but JOIN and STATUS is refused NOT_JOINED; JOIN
is refused ASLEEP outside ACTIVE; STATUS is never refused.
R107: outside ACTIVE every kind but WAKE, STATUS and FETCH_EVENTS is refused ASLEEP from a port that is UP.
R133: the kinds refused in each configuration state, with their statuses. -/
def Obligations.PortPowerAndConfigurationStatesRefuse : Prop :=
  (∀ (k : Kind) (p : Port) (f : Frame) (s : State), Ready k p f s →
     (s.hpu p).validFrame.port = .linked ∨ (s.hpu p).validFrame.port = .clearing →
     (k ≠ .join → k ≠ .status → exec (requestOf k p f) s = .next (s.answered k p f (.refused .notJoined))) ∧
     (k = .join → s.refresh.power ≠ .active → exec (.join p f) s = .next (s.answered k p f (.refused .asleep))) ∧
     (k = .status → ∃ r, exec (.status p f) s = .next (s.answered k p f (.status r)))) ∧
  (∀ (k : Kind) (p : Port) (f : Frame) (s : State), Ready k p f s → (s.hpu p).port = .up → s.refresh.power ≠ .active →
     k ≠ .wake → k ≠ .status → k ≠ .fetchEvents →
     exec (requestOf k p f) s = .next (s.answered k p f (.refused .asleep))) ∧
  (∀ (k : Kind) (p : Port) (f : Frame) (s : State), Accepted k p f s →
     (k ∈ [Kind.operate, .groupRead, .setRecovery, .watch, .stay, .quiesce] → s.config.state ≠ .run →
       exec (requestOf k p f) s = .next (s.answered k p f (.refused .notRunning))) ∧
     (k = .reopen → s.config.state = .setup ∨ s.config.state = .committing →
       exec (requestOf k p f) s = .next (s.answered k p f (.refused .notRunning))) ∧
     (k ∈ [Kind.writeRegion, .writeSettings, .initCells, .commit] → s.config.state ≠ .setup →
       exec (requestOf k p f) s = .next (s.answered k p f (.refused .notSetup))))

/-- R119, R127, R128: a cell request in RUN is refused NO_REGION when no valid entry covers its cell, and DENIED when the
lowest-numbered one that does gives the port less than the right needed; its tag, its vote and one response apart,
nothing changes. -/
def Obligations.RightsAreChecked : Prop :=
  ∀ (k : Kind) (p : Port) (f : Frame) (s : State), Accepted k p f s → s.config.state = .run →
    k ∈ [Kind.operate, .groupRead, .setRecovery, .watch] →
    ((∀ e ∈ s.table.entries, e.covers f.cell = false) →
      exec (requestOf k p f) s = .next (s.answered k p f (.refused .noRegion))) ∧
    ∀ before e after, s.table.entries = before ++ e :: after → (∀ x ∈ before, x.covers f.cell = false) →
      e.covers f.cell = true →
      e.rights.get p = .none ∨
        e.rights.get p = .read ∧ (k = .setRecovery ∨ k = .operate ∧ ¬(bitsOf (f.word 1) 22 4 = 0 ∧ bitsOf (f.word 1) 26 2 = 0)) →
      exec (requestOf k p f) s = .next (s.answered k p f (.refused .denied))

/-- The field check by the bits of the payload words (R172), for the kinds that pass no rights check.
The field check of OPERATE and WATCH (R172), reached after the rights check: that of an OPERATE needs READ alone when its
update and stamp action are coded NONE and KEEP. -/
def Obligations.UndefinedFieldValuesAreRefused : Prop :=
  (∀ (k : Kind) (p : Port) (f : Frame) (s : State), Accepted k p f s →
     (k = .unwatch ∧ 32 ≤ bitsOf (f.word 1) 0 8) ∨
     (k = .readRegion ∧ 17 ≤ bitsOf (f.word 1) 0 8) ∨
     (s.config.state = .setup ∧
       (k = .writeRegion ∧
           (16 ≤ bitsOf (f.word 1) 0 8 ∨ bitsOf (f.word 1) 9 2 = 3 ∨ bitsOf (f.word 1) 16 2 = 3 ∨ bitsOf (f.word 1) 18 2 = 3 ∨
             bitsOf (f.word 1) 20 2 = 3 ∨ bitsOf (f.word 1) 22 2 = 3 ∨ bitsOf (f.word 3) 0 17 = 0 ∨
             65536 < bitsOf (f.word 3) 0 17 ∨ 65536 < bitsOf (f.word 2) 0 16 + bitsOf (f.word 3) 0 17) ∨
         k = .writeSettings ∧
           (bitsOf (f.word 1) 0 8 < 2 ∨ 12 < bitsOf (f.word 1) 0 8 ∨ 2 ≤ bitsOf (f.word 1) 8 2) ∨
         k = .initCells ∧
           (bitsOf (f.word 2) 0 17 = 0 ∨ 65536 < bitsOf (f.word 2) 0 17 ∨
             65536 < bitsOf (f.word 1) 0 16 + bitsOf (f.word 2) 0 17))) →
     exec (requestOf k p f) s = .next (s.answered k p f (.refused .badField))) ∧
  (∀ (k : Kind) (p : Port) (f : Frame) (s : State) (e : RegionEntry), Accepted k p f s → s.config.state = .run →
     s.table.regionOf f.cell = some e →
     (k = .operate ∧ e.rights.get p = .update ∧
         (11 ≤ bitsOf (f.word 1) 16 4 ∨ 9 ≤ bitsOf (f.word 1) 22 4 ∨ bitsOf (f.word 1) 26 2 = 3)) ∨
       (k = .operate ∧ e.rights.get p ≠ .none ∧ bitsOf (f.word 1) 22 4 = 0 ∧ bitsOf (f.word 1) 26 2 = 0 ∧
         11 ≤ bitsOf (f.word 1) 16 4) ∨
       (k = .watch ∧ e.rights.get p ≠ .none ∧ 12 ≤ bitsOf (f.word 1) 16 4) →
     exec (requestOf k p f) s = .next (s.answered k p f (.refused .badField)))

/-- OPERATE, GROUP_READ, SET_RECOVERY and WATCH admitted in RUN (R18, R36, R15, R64, R85, R87, R89): the access joins the end of
its cell's bank queue with bypass count 0. Under the hold, or while the bank is neither READY nor IDLE without a
current access, it waits there; a free bank with an empty queue picks it at once. -/
def Obligations.CellRequestJoinsItsBankQueue : Prop :=
  ∀ (k : Kind) (p : Port) (f : Frame) (s : State) (w : Work) (e : RegionEntry), Accepted k p f s →
    s.config.state = .run → requestedWork k f = some w → s.table.regionOf f.cell = some e →
    workPermitted w (e.rights.get p) →
    let b := bankOf f.cell
    let a : Access := { port := p, tag := some f.tag, cell := f.cell, work := w, bypass := 0 }
    let t := s.admitted (keepsVote k) p f
    (s.refresh.hold = true ∨ (s.bank b).current ≠ none ∨
        (∀ row, (s.bank b).state ≠ .ready row) ∧ (s.bank b).state ≠ .idle →
      exec (requestOf k p f) s = .next
        { t with banks := s.banks.set b { s.bank b with queue := (s.bank b).queue ++ [a] } }) ∧
    (s.refresh.hold = false → s.bank b = { state := .idle, current := none, queue := [] } →
      exec (requestOf k p f) s = .next
        { t with banks := s.banks.set b { state := .opening (f.cell / 64), current := some a, queue := [] } }) ∧
    ∀ row, s.refresh.hold = false → s.bank b = { state := .ready row, current := none, queue := [] } →
      exec (requestOf k p f) s = .next
        { t with
          banks := s.banks.set b
            { state := if row = f.cell / 64 then .accessing row else .closing row, current := some a, queue := [] } }

/-! ### Requests answered when taken (R55, R72, R79, R80, R108, R114, R122 to R126, R158) -/

/-- ATTN_ON and ATTN_OFF (R80): the enable is set and OK answered.
FETCH_EVENTS (R79): from an UP port in every power and configuration state, up to four records leave the front of the
queue and are returned with the count left; the quiesce vote stays.
ATN (R81): after each of these, and after an event, it is asserted exactly when the port is UP with its enable on and its
queue not empty; the lines of the other ports stay. -/
def Obligations.AttentionAndFetchedRecords : Prop :=
  (∀ (p : Port) (f : Frame) (s : State),
     (Accepted .attnOn p f s → exec (.attnOn p f) s = .next
       { s.answered .attnOn p f .ok with events := s.events.set p { s.eventPort p with attention := true } }) ∧
     (Accepted .attnOff p f s → exec (.attnOff p f) s = .next
       { s.answered .attnOff p f .ok with events := s.events.set p { s.eventPort p with attention := false } })) ∧
  (∀ (p : Port) (f : Frame) (s : State), Ready .fetchEvents p f s → (s.hpu p).port = .up →
     exec (.fetchEvents p f) s = .next
       { s.answered .fetchEvents p f
           (.events ((s.eventPort p).queue.take 4) ((s.eventPort p).queue.length - 4)) with
         events := s.events.set p { s.eventPort p with queue := (s.eventPort p).queue.drop 4 } }) ∧
  (∀ (p q : Port) (f : Frame) (s t : State),
     (Accepted .attnOn p f s → exec (.attnOn p f) s = .next t →
       (t.atn q = true ↔ if q = p then (s.eventPort p).queue ≠ [] else s.atn q = true)) ∧
     (Accepted .attnOff p f s → exec (.attnOff p f) s = .next t →
       (t.atn q = true ↔ q ≠ p ∧ s.atn q = true)) ∧
     (Ready .fetchEvents p f s → (s.hpu p).port = .up → exec (.fetchEvents p f) s = .next t →
       (t.atn q = true ↔
         if q = p then (s.eventPort p).attention = true ∧ 4 < (s.eventPort p).queue.length else s.atn q = true))) ∧
  ∀ (p q : Port) (e : Event) (s : State),
    (s.raise p e).atn q = true ↔
      if q = p then (s.hpu p).port = .up ∧ (s.eventPort p).attention = true else s.atn q = true

/-- STATUS (R158): in every port state but DOWN, every power state and every configuration state it is answered at once with
the fields of R158's table and leaves the quiesce vote; nothing but its port's HPU changes. -/
def Obligations.StatusReportsThePart : Prop :=
  ∀ (p : Port) (f : Frame) (s : State), Ready .status p f s → (s.hpu p).validFrame.port ≠ .down →
    exec (.status p f) s = .next
      (s.answered .status p f
        (.status
          { config := s.config.state
            generation := s.table.generation
            power := s.refresh.power
            overrun := s.refresh.overrun
            ports := (s.hpus.map (fun h => h.port)).set p (s.hpu p).validFrame.port
            occupancy := s.park.length
            freeWatches := 32 - s.watches.length
            stampCount := (s.stamps.get p).length
            eventCount := (s.eventPort p).queue.length }))

/-- CANCEL (R55): an entry of the requester with the target tag leaves the list and is answered CANCELLED with its last
evaluation before the CANCEL's OK, here with no access in progress that changes its cell (ClaimsFallInsideAnAccess speaks of
one; an access that leaves it as it is does not evaluate the entry, R57). With none the answer is NOT_FOUND and nothing else changes. A CANCEL never reaches another port's entry.
PARK_EXPIRY (R52): an entry with a deadline leaves the list, the others keeping their order, and is answered EXPIRED with its
last evaluation; one without a deadline never expires (R46), and that the command then leaves the state as it is is the
model's choice (notes/assumptions/7.md).
UNWATCH (R72), in every configuration state: it removes the requester's watch with the id and answers OK, or NOT_FOUND
when the table holds none of the requester's with it. -/
def Obligations.CancelExpiryAndUnwatchRemoveTheirEntry : Prop :=
  (∀ (p : Port) (f : Frame) (s : State), Accepted .cancel p f s →
     (∀ before e after, s.park = before ++ e :: after →
       (∀ x ∈ before ++ after, ¬(x.port = p ∧ x.tag = f.targetTag)) → e.port = p → e.tag = f.targetTag →
       s.NotInChange e →
       exec (.cancel p f) s = .next
         (State.handed p
           [{ kind := 0x81, tag := e.tag,
              body := .operate
               { outcome := .cancelled, old := e.lastValue, new := e.lastValue, owner := e.lastOwner,
                 flags := e.lastFlags, wrapped := false } },
            { kind := 0x84, tag := f.tag, body := .ok }]
           { s.admitted false p f with park := before ++ after })) ∧
     ((∀ x ∈ s.park, ¬(x.port = p ∧ x.tag = f.targetTag)) →
       exec (.cancel p f) s = .next (s.answered .cancel p f (.refused .notFound)))) ∧
  (∀ (before after : List ParkEntry) (e : ParkEntry) (s : State), s.resetHigh = true → s.park = before ++ e :: after →
     (∀ x ∈ before ++ after, ¬(x.port = e.port ∧ x.tag = e.tag)) →
     (∀ d, e.deadline = some d → (s.hpu e.port).port = .up → (s.hpu e.port).link = .alive →
       exec (.parkExpiry e.port e.tag) s = .next
         (State.handed e.port
           [{ kind := 0x81, tag := e.tag,
              body := .operate
               { outcome := .expired, old := e.lastValue, new := e.lastValue, owner := e.lastOwner, flags := e.lastFlags,
                 wrapped := false } }]
           { s with park := before ++ after })) ∧
     (e.deadline = none → exec (.parkExpiry e.port e.tag) s = .next s)) ∧
  ∀ (p : Port) (f : Frame) (s : State), Accepted .unwatch p f s → bitsOf (f.word 1) 0 8 < 32 →
    (∀ before w after, s.watches = before ++ w :: after → (∀ x ∈ before ++ after, x.id ≠ w.id) → w.port = p →
      w.id = bitsOf (f.word 1) 0 8 →
      exec (.unwatch p f) s = .next { s.answered .unwatch p f .ok with watches := before ++ after }) ∧
    ((∀ x ∈ s.watches, ¬(x.id = bitsOf (f.word 1) 0 8 ∧ x.port = p)) →
      exec (.unwatch p f) s = .next (s.answered .unwatch p f (.refused .notFound)))

/-- QUIESCE (R108): in RUN the vote is recorded and OK answered at once; a second one leaves the one vote. The decision is
not taken here, for the QUIESCE's own tag is OUTSTANDING (R110).
WAKE (R114, R109), by the power state: answered OK in ACTIVE; held in ENTERING, RETAINED and WAKING, starting the exit in
RETAINED. In each it removes the requester's vote. -/
def Obligations.QuiesceAndWakeActOnThePowerState : Prop :=
  (∀ (p : Port) (f : Frame) (s : State), Accepted .quiesce p f s → s.config.state = .run →
     exec (.quiesce p f) s = .next
       { s.answered .quiesce p f .ok with refresh := { s.refresh with votes := s.refresh.votes.set p true } }) ∧
  ∀ (p : Port) (f : Frame) (s : State), Ready .wake p f s → (s.hpu p).port = .up →
    let t := s.admitted false p f
    (s.refresh.power = .active → exec (.wake p f) s = .next (s.answered .wake p f .ok)) ∧
    (s.refresh.power = .entering ∨ s.refresh.power = .waking → exec (.wake p f) s = .next
      { t with refresh := { t.refresh with heldWakes := s.refresh.heldWakes ++ [(p, f.tag)] } }) ∧
    (s.refresh.power = .retained → exec (.wake p f) s = .next
      { t with refresh := { t.refresh with heldWakes := s.refresh.heldWakes ++ [(p, f.tag)], power := .waking } })

/-- READ_REGION (R126), in every configuration state: the entry the selector names, or the settings record for 16, with the
generation; the table is not changed.
WRITE_REGION and WRITE_SETTINGS in SETUP (R122, R124, R125, R140): the entry or the settings are replaced whole, the
generation advances by 1, every commit record is cleared, and every held COMMIT is answered SUPERSEDED before the write's
own OK, which carries the generation after it. -/
def Obligations.RegionTableIsReadAndWritten : Prop :=
  (∀ (p : Port) (f : Frame) (s : State), Accepted .readRegion p f s →
     (∀ e, s.table.entries[bitsOf (f.word 1) 0 8]? = some e → bitsOf (f.word 1) 0 8 < 16 →
       exec (.readRegion p f) s = .next
         (s.answered .readRegion p f (.region (bitsOf (f.word 1) 0 8) e s.table.generation))) ∧
     (bitsOf (f.word 1) 0 8 = 16 →
       exec (.readRegion p f) s = .next
         (s.answered .readRegion p f (.settings s.table.settings s.table.generation)))) ∧
  (∀ (p : Port) (f : Frame) (s : State), s.config.state = .setup →
     let voided (k : Kind) (table : RegionTable) : State :=
       State.replyHeld 0x90 (.refused .superseded) s.config.heldCommits
         { s.admitted (keepsVote k) p f with
           table := { table with generation := s.table.generation + 1 }
           config := { s.config with commits := Four.all none, heldCommits := [] } }
     (∀ e, Accepted .writeRegion p f s → bitsOf (f.word 1) 0 8 < 16 → f.regionFields = some e →
       exec (.writeRegion p f) s = .next
         ((voided .writeRegion { s.table with entries := s.table.entries.set (bitsOf (f.word 1) 0 8) e }).handed p
           [{ kind := 0x8C, tag := f.tag, body := .written (s.table.generation + 1) }])) ∧
     (∀ x, Accepted .writeSettings p f s → f.settingsFields = some x →
       exec (.writeSettings p f) s = .next
         ((voided .writeSettings { s.table with settings := x }).handed p
           [{ kind := 0x8E, tag := f.tag, body := .written (s.table.generation + 1) }])))

/-! ### INIT_CELLS, COMMIT, REOPEN and STAY (R134, R139 to R145) -/

/-- INIT_CELLS in SETUP (R134, R135): it is entered among those in flight with the group of its base cell next, and its
first group write joins that group's bank queue, waiting there when the bank is not free to pick. -/
def Obligations.InitCellsIssuesItsFirstGroupWrite : Prop :=
  ∀ (p : Port) (f : Frame) (s : State) (i : InitFields), Accepted .initCells p f s → s.config.state = .setup →
    f.initFields = some i →
    let b := bankOf i.base
    let a : Access := { port := p, tag := some f.tag, cell := i.base, work := .groupWrite i, bypass := 0 }
    let t : State :=
      { s.admitted false p f with
        config :=
          { s.config with
            inits := s.config.inits ++ [{ port := p, tag := f.tag, init := i, nextGroup := i.base - i.base % 16 }] } }
    (s.refresh.hold = true ∨ (s.bank b).current ≠ none ∨
        (∀ row, (s.bank b).state ≠ .ready row) ∧ (s.bank b).state ≠ .idle →
      exec (.initCells p f) s = .next
        { t with banks := s.banks.set b { s.bank b with queue := (s.bank b).queue ++ [a] } }) ∧
    (s.refresh.hold = false → s.bank b = { state := .idle, current := none, queue := [] } →
      exec (.initCells p f) s = .next
        { t with banks := s.banks.set b { state := .opening (i.base / 64), current := some a, queue := [] } }) ∧
    ∀ row, s.refresh.hold = false → s.bank b = { state := .ready row, current := none, queue := [] } →
      exec (.initCells p f) s = .next
        { t with
          banks := s.banks.set b
            { state := if row = i.base / 64 then .accessing row else .closing row, current := some a, queue := [] } }

/-- COMMIT without a quorum (R139): STALE for another generation, with nothing recorded; for the current one the record is set
and the COMMIT held, an earlier held one of the port being answered SUPERSEDED.
The commit decision (R141, R142), at the COMMIT that completes the quorum, with no earlier COMMIT of its port held: with
overlapping entries the part stays in SETUP, every record is cleared and every held COMMIT answered OVERLAP with the two
entry numbers; without, the part goes RUN at once when no INIT_CELLS is in flight, the held COMMITs answered OK in the
order held and RUNNING raised, and otherwise stands in COMMITTING with the COMMITs held. -/
def Obligations.CommitIsHeldOrDecides : Prop :=
  (∀ (p : Port) (f : Frame) (s : State), Accepted .commit p f s → s.config.state = .setup →
     let generation : Count16 := BitVec.ofNat 16 (bitsOf (f.word 1) 0 16)
     (generation ≠ s.table.generation →
       exec (.commit p f) s = .next (s.answered .commit p f (.refused .stale))) ∧
     (generation = s.table.generation →
       (∃ q, q ≠ p ∧ (s.hpu q).port = .up ∧ s.config.commits.get q ≠ some s.table.generation) →
       exec (.commit p f) s = .next
         (State.handed p
           ((s.config.heldCommits.filter (fun x => x.1 == p)).map
             (fun x => { kind := 0x90, tag := x.2, body := .refused .superseded }))
           { s.admitted false p f with
             config :=
               { s.config with
                 commits := s.config.commits.set p (some s.table.generation)
                 heldCommits := s.config.heldCommits.filter (fun x => x.1 != p) ++ [(p, f.tag)] } }))) ∧
  ∀ (p : Port) (f : Frame) (s : State), Accepted .commit p f s → s.config.state = .setup →
    (BitVec.ofNat 16 (bitsOf (f.word 1) 0 16) : Count16) = s.table.generation →
    (∀ q, q ≠ p → (s.hpu q).port = .up → s.config.commits.get q = some s.table.generation) →
    (∀ x ∈ s.config.heldCommits, x.1 ≠ p) →
    let t := s.admitted false p f
    let held := s.config.heldCommits ++ [(p, f.tag)]
    (∀ i j, s.table.overlapPair = some (i, j) →
      exec (.commit p f) s = .next
        (State.replyHeld 0x90 (.overlap i j) held
          { t with config := { s.config with commits := Four.all none, heldCommits := [] } })) ∧
    (s.table.overlapPair = none → s.config.inits = [] →
      exec (.commit p f) s = .next
        (State.raiseAll .running
          (State.replyHeld 0x90 .ok held
            { t with config := { s.config with state := .run, commits := Four.all none, heldCommits := [] } }))) ∧
    (s.table.overlapPair = none → s.config.inits ≠ [] →
      exec (.commit p f) s = .next
        { t with
          config :=
            { s.config with
              state := .committing, commits := s.config.commits.set p (some s.table.generation), heldCommits := held } })

/-- R141's overlap: the pair returned is the lowest-numbered valid entry that shares a cell with another valid entry, and the
lowest-numbered one it shares a cell with; none is returned exactly when no two entries share a cell. -/
def Obligations.OverlapNamesTheLowestEntries : Prop :=
  ∀ t : RegionTable, (∀ e ∈ t.entries, 1 ≤ e.length) →
    let shares (i j : Nat) : Prop :=
      i ≠ j ∧ ∃ a b c, t.entries[i]? = some a ∧ t.entries[j]? = some b ∧ a.covers c = true ∧ b.covers c = true
    (t.overlapPair = none ↔ ∀ i j, ¬shares i j) ∧
    ∀ i j, t.overlapPair = some (i, j) →
      shares i j ∧ (∀ i' j', shares i' j' → i ≤ i') ∧ ∀ j', shares i j' → j ≤ j'

/-- REOPEN (R143, R144) in RUN while another UP port has no reopen vote, and in DRAINING: an earlier held REOPEN of the port
is answered SUPERSEDED, the new one held; in RUN its vote is set.
The reopen decision (R144, R145): the REOPEN that completes the quorum takes the part to DRAINING, and changes nothing else
but its own vote and hold while a host access is queued or current; with none, the drain ends at this happening.
STAY in RUN (R143): a vote present is cleared and the port's held REOPEN answered SUPERSEDED before the STAY's OK; with no
vote the answer is NOT_FOUND. -/
def Obligations.ReopenAndStayActOnTheVote : Prop :=
  (∀ (p : Port) (f : Frame) (s : State), Accepted .reopen p f s →
     let superseded : List Response :=
       (s.config.heldReopens.filter (fun x => x.1 == p)).map
         (fun x => { kind := 0x91, tag := x.2, body := .refused .superseded })
     let held := s.config.heldReopens.filter (fun x => x.1 != p) ++ [(p, f.tag)]
     (s.config.state = .run → (∃ q, q ≠ p ∧ (s.hpu q).port = .up ∧ s.config.reopenVotes.get q = false) →
       exec (.reopen p f) s = .next
         (State.handed p superseded
           { s.admitted false p f with
             config := { s.config with reopenVotes := s.config.reopenVotes.set p true, heldReopens := held } })) ∧
     (s.config.state = .draining →
       exec (.reopen p f) s = .next
         (State.handed p superseded { s.admitted false p f with config := { s.config with heldReopens := held } }))) ∧
  (∀ (p : Port) (f : Frame) (s : State), Accepted .reopen p f s → s.config.state = .run →
     (∀ q, q ≠ p → (s.hpu q).port = .up → s.config.reopenVotes.get q = true) →
     (∀ x ∈ s.config.heldReopens, x.1 ≠ p) →
     let t : State :=
       { s.admitted false p f with
         config :=
           { s.config with
             state := .draining
             reopenVotes := s.config.reopenVotes.set p true
             heldReopens := s.config.heldReopens ++ [(p, f.tag)] } }
     ((∃ b, ∃ a ∈ (s.bank b).queue ++ (s.bank b).current.toList, a.isHost = true) →
       exec (.reopen p f) s = .next t) ∧
     ((∀ b, ∀ a ∈ (s.bank b).queue ++ (s.bank b).current.toList, a.isHost = false) →
       exec (.reopen p f) s = exec .drainEnd t)) ∧
  ∀ (p : Port) (f : Frame) (s : State), Accepted .stay p f s → s.config.state = .run →
    (s.config.reopenVotes.get p = true →
      exec (.stay p f) s = .next
        (State.handed p
          ((s.config.heldReopens.filter (fun x => x.1 == p)).map
              (fun x => { kind := 0x91, tag := x.2, body := .refused .superseded }) ++
            [{ kind := 0x92, tag := f.tag, body := .ok }])
          { s.admitted false p f with
            config :=
              { s.config with
                reopenVotes := s.config.reopenVotes.set p false
                heldReopens := s.config.heldReopens.filter (fun x => x.1 != p) } })) ∧
    (s.config.reopenVotes.get p = false →
      exec (.stay p f) s = .next (s.answered .stay p f (.refused .notFound)))

/-- STEP_TO_RUN (R142): in COMMITTING with no INIT_CELLS in flight, RUN, the held COMMITs answered OK in the order held, the
commit records cleared, RUNNING raised for every UP port.
DRAIN_END (R145, R59, R73, R109): in DRAINING with no host access queued or current, every parked entry is answered
WITHDRAWN in park order with its last evaluation, every watch leaves, SETUP is reached with no reopen or quiesce vote,
the held REOPENs are answered OK, and RECONFIGURED is raised. That either does nothing when its condition does not stand
is the model's choice (notes/assumptions/7.md), and so is that DRAIN_END falls before or after a recovery access in progress
and not inside its cascade, where R59 leaves it open (notes/assumptions/39.md). -/
def Obligations.ConfigurationStepsEnd : Prop :=
  (∀ s : State, s.resetHigh = true →
     (s.config.state = .committing → s.config.inits = [] →
       exec .stepToRun s = .next
         (State.raiseAll .running
           (State.replyHeld 0x90 .ok s.config.heldCommits
             { s with config := { s.config with state := .run, commits := Four.all none, heldCommits := [] } }))) ∧
     (s.config.state ≠ .committing ∨ s.config.inits ≠ [] → exec .stepToRun s = .next s)) ∧
  (∀ s : State, s.resetHigh = true →
     (s.config.state = .draining →
       (∀ b, ∀ a ∈ (s.bank b).queue ++ (s.bank b).current.toList, a.isHost = false) →
       exec .drainEnd s = .next
         (State.raiseAll .reconfigured
           (State.replyHeld 0x91 .ok s.config.heldReopens
             (s.park.foldl
               (fun t e =>
                 if (s.hpu e.port).port = .up then
                   t.reply e.port 0x81 e.tag
                     (.operate
                       { outcome := .withdrawn, old := e.lastValue, new := e.lastValue, owner := e.lastOwner,
                         flags := e.lastFlags, wrapped := false })
                 else t)
               { s with
                 park := [], watches := []
                 config := { s.config with state := .setup, reopenVotes := Four.all false, heldReopens := [] }
                 refresh := { s.refresh with votes := Four.all false } })))) ∧
     (s.config.state ≠ .draining ∨ (∃ b, ∃ a ∈ (s.bank b).queue ++ (s.bank b).current.toList, a.isHost = true) →
       exec .drainEnd s = .next s))

/-! ### JOIN, LEAVE and link loss (R147, R148, R156, R157, R160, R161) -/

/-- JOIN (R156) by the port state, in ACTIVE: from LINKED the port goes UP with counter 0 and attention on, PORT_JOINED goes to
every other UP port and OK is answered; from UP only OK is answered; in CLEARING the JOIN is held, an earlier one being
answered SUPERSEDED. -/
def Obligations.JoinActsByThePortState : Prop :=
  ∀ (p : Port) (f : Frame) (s : State), Ready .join p f s → s.refresh.power = .active →
    let t := s.admitted false p f
    ((t.hpu p).port = .linked →
      exec (.join p f) s = .next
        (State.handed p [{ kind := 0x93, tag := f.tag, body := .ok }]
          (State.raiseOthers p (.portJoined p)
            { t with
              hpus := t.hpus.set p { t.hpu p with port := .up }
              events := s.events.set p { s.eventPort p with seq := 0, attention := true } }))) ∧
    ((t.hpu p).port = .up → exec (.join p f) s = .next (s.answered .join p f .ok)) ∧
    ((t.hpu p).port = .clearing → (s.hpu p).heldJoin = none →
      exec (.join p f) s = .next { t with hpus := t.hpus.set p { t.hpu p with heldJoin := some f.tag } }) ∧
    ∀ earlier, (t.hpu p).port = .clearing → (s.hpu p).heldJoin = some earlier →
      exec (.join p f) s = .next
        { t with
          hpus := t.hpus.set p
            { t.hpu p with
              heldJoin := some f.tag
              sendList := (s.hpu p).sendList ++
                [{ kind := 0x93, tag := earlier, body := .refused .superseded }] } }

/-- LEAVE and link loss from UP (R148, R155, R157, R160 to R162): teardown starts. No work, watch, event, vote or held
request of the port is left, its tags are FREE but those of responses in its send list, no host access of it is queued;
PORT_LOST with the reason joins the queue of every other UP port with room; cells, stamp lists and the Region Table do
not change. LEAVE's OK is the last response of the send list, behind all those it already held; a lost link is DEAD with
nothing to send. Here no entry of the port is parked on the cell of an access in progress that changes it
(ClaimsFallInsideAnAccess speaks of such).
The start taken whole is `cleared`: the record AWAITING the banks that have a current access, with zero counts; an
INIT_CELLS of the port in flight only while its group write is in progress (R138); nothing of any other port changed but
for PORT_LOST. What the departure brings follows it (R161): the walk's start when no bank is awaited, a decision of the
configuration, an opportunistic refresh, each where it is due, in some order (a free value, notes/assumptions/3.md), each
taken whole by the model's choice (notes/assumptions/37.md; the drain's end, 39.md). With no other teardown under way: while a bank has a current
access, that is the decision alone, the state staying `cleared` where none is due; with none in any bank, and neither
decision nor refresh due, it is the walk's start alone. -/
def Obligations.DepartureStartsTeardown : Prop :=
  ∀ (p : Port) (s : State), s.resetHigh = true → (s.hpu p).port = .up → (s.hpu p).heldJoin = none →
    (∀ e ∈ s.park, e.port = p → s.NotInChange e) →
    let departed (reason : LossReason) (t : State) : Prop :=
      t.Absent p ∧ (t.hpu p).port ≠ .up ∧
        (∀ b, ∀ a ∈ (t.bank b).queue, a.port = p → a.isHost = false) ∧
        t.cells = s.cells ∧ t.stamps = s.stamps ∧ t.table = s.table ∧
        ∀ q, q ≠ p → (s.hpu q).port = .up → (s.eventPort q).queue.length < 16 →
          ∃ more, (t.eventPort q).queue =
            (s.eventPort q).queue ++ { seq := (s.eventPort q).seq, event := .portLost p reason } :: more
    let cleared (reason : LossReason) (h : Hpu) : State :=
      State.raiseOthers p (.portLost p reason)
        { s with
          hpus := s.hpus.set p h
          teardown := s.teardown.set p
            (some
              { reason := reason, phase := .awaiting, awaited := s.banks.map (fun k => k.current.isSome), passed := [],
                current := none, restored := 0, released := 0, held := 0 })
          banks := s.banks.map (fun k => { k with queue := k.queue.filter (fun a => !(a.isHost && a.port == p)) })
          config :=
            { s.config with
              commits := s.config.commits.set p none
              heldCommits := s.config.heldCommits.filter (fun x => x.1 != p)
              reopenVotes := s.config.reopenVotes.set p false
              heldReopens := s.config.heldReopens.filter (fun x => x.1 != p)
              inits := s.config.inits.filter (fun i =>
                i.port != p ||
                  allFour.any (fun b => (s.bank b).current.any (fun a =>
                    a.isGroupWrite && a.port == p && a.tag == some i.tag))) }
          park := s.park.filter (fun e => e.port != p)
          watches := s.watches.filter (fun w => w.port != p)
          events := s.events.set p { s.eventPort p with queue := [], attention := false }
          refresh :=
            { s.refresh with
              votes := s.refresh.votes.set p false
              heldWakes := s.refresh.heldWakes.filter (fun x => x.1 != p) } }
    let follows (d t : State) : Prop :=
      State.FallsTo d t ∧
        ((∀ q, q ≠ p → s.teardown.get q = none) →
          ((∃ b, (s.bank b).current ≠ none) → Decides d t) ∧
          ((∀ b, (s.bank b).current = none) → Decides d d → ¬d.Opportunity →
            exec (.teardownWalkStart p) d = .next t))
    (∀ f, Accepted .leave p f s →
      let ok : Response := { kind := 0x94, tag := f.tag, body := .ok }
      ∃ tags t,
        (∀ tag, tags.get tag = .outstanding ↔ ∃ r ∈ (s.hpu p).sendList ++ [ok], r.tag = tag) ∧
        exec (.leave p f) s = .next t ∧ departed .leave t ∧ (t.hpu p).link = .alive ∧
        (t.hpu p).sendList = (s.hpu p).sendList ++ [ok] ∧ (t.hpu p).tags = tags ∧
        follows
          (cleared .leave
            { (s.hpu p).validFrame with
              port := .clearing, tags := tags, admission := none, sendList := (s.hpu p).sendList ++ [ok] })
          t) ∧
    ((s.hpu p).link = .alive →
      let lost : Hpu :=
        { s.hpu p with
          link := .dead, port := .clearing, recvTimer := none, sendTimer := none, sendList := []
          tags := Eight.all .free, heldJoin := none }
      ∃ t, exec (.linkLoss p) s = .next t ∧ departed .link t ∧ (t.hpu p).link = .dead ∧ (t.hpu p).sendList = [] ∧
        (t.hpu p).recvTimer = none ∧ (t.hpu p).sendTimer = none ∧ (∀ tag, t.tagState p tag = .free) ∧
        follows (cleared .link lost) t)

/-- LINK_LOSS from LINKED and CLEARING (R148, R110): the link goes DEAD, its timers stop, the send list and a held JOIN are
discarded, every tag is FREE; CLEARING stays; LINKED goes DOWN, and the retention decision is tested: it is taken as
RETENTION_DECISION takes it when its conditions stand then, and otherwise nothing more happens.
SEND_IDLE and RESPONSE_SENT (R149, R152, R154): the part sends an idle frame, or the oldest response of the send list with
its tag freed; each sets the send timer to zero. After a response the retention decision is tested in the same way
(R110). What the pin last carried, `lastSent`, is a field of the model's own form (notes/assumptions/16.md). -/
def Obligations.LinkLossAndSending : Prop :=
  (∀ (p : Port) (s : State), s.resetHigh = true → (s.hpu p).link = .alive →
     let lost : Hpu :=
       { s.hpu p with
         link := .dead, recvTimer := none, sendTimer := none, sendList := [], tags := Eight.all .free, heldJoin := none }
     let down : State := { s with hpus := s.hpus.set p { lost with port := .down } }
     ((s.hpu p).port = .clearing → exec (.linkLoss p) s = .next { s with hpus := s.hpus.set p lost }) ∧
     ((s.hpu p).port = .linked →
       exec (.linkLoss p) s = exec .retentionDecision down ∧
       (¬RetentionAgreed down → exec (.linkLoss p) s = .next down))) ∧
  (∀ (p : Port) (s : State), s.resetHigh = true → (s.hpu p).link = .alive →
     exec (.sendIdle p) s = .next
       { s with hpus := s.hpus.set p { s.hpu p with sendTimer := some 0, lastSent := some [0x00000000, 0xFFFFFFFF] } } ∧
     ∀ r rest, (s.hpu p).sendList = r :: rest →
       let sent : State :=
         { s with
           hpus := s.hpus.set p
             { s.hpu p with
               sendTimer := some 0, lastSent := some r.words, sendList := rest, tags := (s.hpu p).tags.set r.tag .free } }
       exec (.responseSent p) s = exec .retentionDecision sent ∧
       (¬RetentionAgreed sent → exec (.responseSent p) s = .next sent))

/-! ### Banks (R87 to R91, R96) -/

/-- The pick rule (R87, R89), at BANK_PICK of a bank with no current access and no hold. READY, with the oldest entry's count
below 4 and an entry for the open row, it picks the oldest such entry and raises the count of every older one; otherwise
the oldest of all. The access begins at once on the open row, after a close and an open from another row, after an open
from IDLE.
R96: under the hold no bank picks. -/
def Obligations.BanksPickByTheRule : Prop :=
  (∀ (b : Bank) (s : State), s.resetHigh = true → s.refresh.hold = false → (s.bank b).current = none →
     (∀ row older hit younger, (s.bank b).state = .ready row → (s.bank b).queue = older ++ hit :: younger →
       (∀ a ∈ older, a.cell / 64 ≠ row) → hit.cell / 64 = row → ((older ++ [hit]).head?.map (·.bypass)).getD 0 < 4 →
       exec (.bankPick b) s = .next
         { s with
           banks := s.banks.set b
             { state := .accessing row, current := some hit
               queue := older.map (fun a => { a with bypass := a.bypass + 1 }) ++ younger } }) ∧
     (∀ row oldest rest, (s.bank b).state = .ready row → (s.bank b).queue = oldest :: rest →
       4 ≤ oldest.bypass ∨ (∀ a ∈ oldest :: rest, a.cell / 64 ≠ row) →
       exec (.bankPick b) s = .next
         { s with
           banks := s.banks.set b
             { state := if oldest.cell / 64 = row then .accessing row else .closing row, current := some oldest
               queue := rest } }) ∧
     (∀ oldest rest, (s.bank b).state = .idle → (s.bank b).queue = oldest :: rest →
       exec (.bankPick b) s = .next
         { s with
           banks := s.banks.set b { state := .opening (oldest.cell / 64), current := some oldest, queue := rest } })) ∧
  (∀ (b : Bank) (s : State), s.refresh.hold = true → exec (.bankPick b) s = .next s)

/-- ROW_CLOSE_END and ROW_OPEN_END (R89, R91, R96, R97, R111): a close for a picked access goes on to its open; a close with
no current access leaves the bank IDLE, where it picks its oldest entry when no hold is placed, and under the hold may be
the last one that a refresh in ACTIVE, or the placing of the storage in ENTERING, waited for; an open begins the access on
its row. -/
def Obligations.RowStepsEnd : Prop :=
  ∀ (b : Bank) (s : State), s.resetHigh = true →
    (∀ row a, (s.bank b).state = .closing row → (s.bank b).current = some a →
      exec (.rowCloseEnd b) s = .next
        { s with banks := s.banks.set b { s.bank b with state := .opening (a.cell / 64) } }) ∧
    (∀ row, (s.bank b).state = .closing row → (s.bank b).current = none → s.refresh.hold = false →
      exec (.rowCloseEnd b) s =
        exec (.bankPick b) { s with banks := s.banks.set b { s.bank b with state := .idle } }) ∧
    (∀ row, (s.bank b).state = .closing row → (s.bank b).current = none → s.refresh.hold = true →
      let others : Prop := ∀ d, d ≠ b → (s.bank d).state = .idle ∧ (s.bank d).current = none
      let idle : State := { s with banks := s.banks.set b { s.bank b with state := .idle } }
      (s.refresh.refreshing = false → s.refresh.power = .active → others →
        exec (.rowCloseEnd b) s = .next
          { s with
            banks := s.banks.map (fun k => { k with state := .refreshing })
            refresh := { s.refresh with refreshing := true } }) ∧
      (s.refresh.refreshing = false → s.refresh.power = .entering → s.refresh.placing = none → others →
        exec (.rowCloseEnd b) s = .next
          { idle with refresh := { s.refresh with placing := some s.table.settings.mask } }) ∧
      (¬others → exec (.rowCloseEnd b) s = .next idle)) ∧
    ∀ row a, (s.bank b).state = .opening row → (s.bank b).current = some a →
      exec (.rowOpenEnd b) s = .next
        { s with banks := s.banks.set b { s.bank b with state := .accessing row } }

/-- R91 and R96, at the end of any access, as the statements about accesses name it: a bank that was performing one has no
current access, and under the hold it closes its row; with entries waiting it picks as BANK_PICK does; with none it stays
READY under OPEN and closes under CLOSE. Nothing but the bank changes. -/
def Obligations.BankGoesOnAfterAnAccess : Prop :=
  ∀ (b : Bank) (s : State) (row : Nat), (s.bank b).state = .accessing row →
    let closing : State := { s with banks := s.banks.set b { s.bank b with state := .closing row, current := none } }
    let ready : State := { s with banks := s.banks.set b { s.bank b with state := .ready row, current := none } }
    (s.refresh.hold = true → s.endAtBank b = closing) ∧
    (s.refresh.hold = false → (s.bank b).queue = [] → s.table.settings.page = .closed → s.endAtBank b = closing) ∧
    (s.refresh.hold = false → (s.bank b).queue = [] → s.table.settings.page = .opened → s.endAtBank b = ready) ∧
    (s.refresh.hold = false → (s.bank b).queue ≠ [] → s.resetHigh = true →
      exec (.bankPick b) ready = .next (s.endAtBank b))

/-- What follows together with the end of an access at a bank that was performing one, once its effects, responses and report
are made. The bank goes on, and no teardown awaits it any more (R162). That the bank takes its own step before a walk that
begins issues its first recovery access is the model's choice (notes/assumptions/35.md); R91 and R162 leave it open.
Then, whatever has come due falls together: the walks of the ports whose records await no bank any more, one or several,
a decision of the configuration, an opportunistic refresh, in some order (a free value, notes/assumptions/3.md), each
taken whole by the model's choice (notes/assumptions/37.md; the drain's end, 39.md). The refresh is tested with the entry that the access's report
issued already in its queue, by the model's choice (notes/assumptions/38.md); R103 leaves it open.
In the plain cases: nothing; the step to RUN or the end of the drain (R142, R145); an opportunistic refresh, which places
the hold (R103); the start of the one walk (R162), in either order with such a refresh. -/
def Obligations.WhatFollowsTheEndOfAnAccess : Prop :=
  ∀ (b : Bank) (s : State) (row : Nat), s.resetHigh = true → (s.bank b).state = .accessing row →
    let ended : State :=
      { s.endAtBank b with
        teardown := s.teardown.map (fun x => x.map (fun r => { r with awaited := r.awaited.set b false })) }
    let walks (p : Port) : Prop :=
      ∃ r, ended.teardown.get p = some r ∧ r.phase = .awaiting ∧ ∀ d, r.awaited.get d = false
    let toRun : Prop := s.config.state = .committing ∧ s.config.inits = []
    let drained : Prop :=
      s.config.state = .draining ∧ ∀ d, ∀ a ∈ (ended.bank d).queue ++ (ended.bank d).current.toList, a.isHost = false
    let decided : Prop :=
      (∃ p, (s.hpu p).port = .up) ∧
        (s.config.state = .setup ∧
            (∀ p, (s.hpu p).port = .up → s.config.commits.get p = some s.table.generation) ∨
          s.config.state = .run ∧ ∀ p, (s.hpu p).port = .up → s.config.reopenVotes.get p = true)
    let refreshes : Prop :=
      s.refresh.power = .active ∧ 1 ≤ s.refresh.debt ∧ s.refresh.hold = false ∧
        ∀ d, (ended.bank d).queue = [] ∧ (ended.bank d).current = none
    let held (t : State) : State :=
      { t with
        banks := t.banks.map (fun k =>
          match k.state with
          | .ready row => { k with state := .closing row }
          | _ => k)
        refresh := { t.refresh with hold := true } }
    State.FallsTo ended (s.finishAccess b) ∧
    (¬decided →
      ((∀ p, ¬walks p) →
        (¬toRun → ¬drained → ¬refreshes → s.finishAccess b = ended) ∧
        (¬toRun → ¬drained → refreshes → s.finishAccess b = held ended) ∧
        (toRun → ∃ t, exec .stepToRun ended = .next t ∧
          (¬refreshes → s.finishAccess b = t) ∧ (refreshes → s.finishAccess b = held t)) ∧
        (drained → ∃ t, exec .drainEnd ended = .next t ∧
          (¬refreshes → s.finishAccess b = t) ∧ (refreshes → s.finishAccess b = held t))) ∧
      ∀ p, walks p → (∀ q, q ≠ p → ¬walks q) → ¬toRun → ¬drained →
        (¬refreshes → exec (.teardownWalkStart p) ended = .next (s.finishAccess b)) ∧
        (refreshes →
          let chosen : State := { ended with choices := s.choices + 1 }
          exec (.teardownWalkStart p) (held chosen) = .next (s.finishAccess b) ∨
            ∃ t, exec (.teardownWalkStart p) chosen = .next t ∧ (s.finishAccess b = t ∨ s.finishAccess b = held t)))

/-! ### OPERATE at its access (R6, R7, R20 to R33, R43, R44, R47) -/

/-- The flags (R21), from the difference of value and compare operand modulo 2^32: C a borrow, Z an equal pair, N bit 31 of
the difference, V the sign of the result lost.
The predicates mean what R22 says: signed and unsigned comparisons of the value with the compare operand, by the flags of
R21.
The guard (R22 to R24): predicate, ownership condition and stamp precondition together, the ownership condition and the
precondition read from the owner and the requester. -/
def Obligations.GuardsCompareValueAndOwner : Prop :=
  (∀ value cmp : Word,
     ((compareFlags value cmp).c = true ↔ value.toNat < cmp.toNat) ∧
     ((compareFlags value cmp).z = true ↔ value = cmp) ∧
     ((compareFlags value cmp).n = true ↔ (value - cmp).getLsbD 31 = true) ∧
     ((compareFlags value cmp).v = true ↔
       value.getLsbD 31 ≠ cmp.getLsbD 31 ∧ (value - cmp).getLsbD 31 ≠ value.getLsbD 31)) ∧
  (∀ value cmp : Word,
     let holds (q : Pred) : Bool := predHolds q (compareFlags value cmp)
     holds .always = true ∧ (holds .eq = true ↔ value = cmp) ∧ (holds .ne = true ↔ value ≠ cmp) ∧
     (holds .lt = true ↔ value.toInt < cmp.toInt) ∧ (holds .le = true ↔ value.toInt ≤ cmp.toInt) ∧
     (holds .gt = true ↔ cmp.toInt < value.toInt) ∧ (holds .ge = true ↔ cmp.toInt ≤ value.toInt) ∧
     (holds .ult = true ↔ value.toNat < cmp.toNat) ∧ (holds .ule = true ↔ value.toNat ≤ cmp.toNat) ∧
     (holds .ugt = true ↔ cmp.toNat < value.toNat) ∧ (holds .uge = true ↔ cmp.toNat ≤ value.toNat)) ∧
  (∀ (op : OpFields) (p : Port) (v : Word) (o : Option Port),
     guardHolds op p v o = true ↔
       predHolds op.pred (compareFlags v op.cmp) = true ∧
       (match op.own with
         | .any => True
         | .none => o = none
         | .mine => o = some p
         | .notMine => o ≠ some p) ∧
       match op.stamp with
       | .keep => True
       | .stamp => o = none ∨ o = some p
       | .unstamp => o = some p)

/-- An OPERATE whose guard holds on a LIVE cell (R25 to R30, R33, R11, R12), here one that does not change its cell, or whose
cell has an empty chain and no watch: the cell takes the new value and owner and keeps its recovery value, the
requester's stamp list gains the cell at its end or loses it with the owner, the requester is answered DONE, unless its
port is no longer UP (R34), and the access ends as the statements on its end give. Every other cell, list, port and block
is unchanged. A port no longer UP is here one whose walk has not begun. -/
def Obligations.OperateExecutes : Prop :=
  ∀ (b : Bank) (s : State) (p : Port) (tag : Tag) (c : CellIx) (op : OpFields) (n : Nat) (v : Word) (o : Option Port)
      (r : Option Word),
    Performing b { port := p, tag := some tag, cell := c, work := .operate op, bypass := n } s →
    s.readCell c = .live v o r → (∀ x, s.teardown.get p = some x → x.passed = []) →
    predHolds op.pred (compareFlags v op.cmp) = true → ownHolds op.own p o = true →
    (op.stamp = .stamp → o = none ∨ o = some p) → (op.stamp = .unstamp → o = some p) →
    ¬(op.stamp = .stamp ∧ o = none ∧ 64 ≤ (s.stamps.get p).length) →
    let owner : Option Port :=
      match op.stamp with
      | .keep => o
      | .stamp => some p
      | .unstamp => none
    applyUpdate op.upd v op.arg = v ∧ owner = o ∨ (∀ e ∈ s.park, e.cell ≠ c) ∧ (∀ w ∈ s.watches, w.cell ≠ c) →
    let mine := s.stamps.get p
    let stamps : Four (List CellIx) :=
      if op.stamp = .stamp ∧ o = none then s.stamps.set p (mine ++ [c])
      else if op.stamp = .unstamp then s.stamps.set p (mine.filter (fun x => x != c))
      else s.stamps
    exec (.operateAccess b) s = .next
      (State.finishAccess b
        (State.handAll
          [(p,
            { kind := 0x81, tag := tag,
              body := .operate
               { outcome := .done, old := v, new := applyUpdate op.upd v op.arg, owner := owner,
                 flags := compareFlags v op.cmp, wrapped := updateWraps op.upd v op.arg } })]
          { s with cells := s.cells.write c (.live (applyUpdate op.upd v op.arg) owner r), stamps := stamps }))

/-- The updates on the numbers they stand for (R25, R26): ADD and SUB modulo 2^32 with the wrapped indication exactly when the
whole-number result leaves the range, MAX and MIN unsigned and never wrapped, the others bit by bit. -/
def Obligations.UpdatesComputeTheNewValue : Prop :=
  ∀ value arg : Word,
    applyUpdate .none value arg = value ∧ applyUpdate .set value arg = arg ∧
    (applyUpdate .add value arg).toNat = (value.toNat + arg.toNat) % 2 ^ 32 ∧
    ((applyUpdate .sub value arg).toNat : Int) = ((value.toNat : Int) - arg.toNat) % 2 ^ 32 ∧
    (∀ i, (applyUpdate .and value arg).getLsbD i = (value.getLsbD i && arg.getLsbD i)) ∧
    (∀ i, (applyUpdate .or value arg).getLsbD i = (value.getLsbD i || arg.getLsbD i)) ∧
    (∀ i, (applyUpdate .xor value arg).getLsbD i = (value.getLsbD i ^^ arg.getLsbD i)) ∧
    (applyUpdate .max value arg).toNat = Nat.max value.toNat arg.toNat ∧
    (applyUpdate .min value arg).toNat = Nat.min value.toNat arg.toNat ∧
    (∀ u, updateWraps u value arg = true ↔
      u = .add ∧ 4294967296 ≤ value.toNat + arg.toNat ∨ u = .sub ∧ value.toNat < arg.toNat)

/-- An OPERATE that does not execute (R6, R28, R31, R32, R43, R44). No cell, stamp list or watch changes and no cascade runs.
On a VOID or LOST cell one that is not creating is refused VOID or LOST; a STAMP on an unowned cell with 64 cells listed
is refused STAMP_FULL; a false guard ends FALSE with patience 0, parks with patience and room, its deadline the patience
in ms from now (none for 65,535), and ends UNPARKED at a full list. When the requester's port is no longer UP its response
is discarded (R34) and it does not park (R43). -/
def Obligations.OperateWithoutEffectOnItsCell : Prop :=
  ∀ (b : Bank) (s : State) (p : Port) (tag : Tag) (c : CellIx) (op : OpFields) (n : Nat),
    Performing b { port := p, tag := some tag, cell := c, work := .operate op, bypass := n } s →
    let answers (body : RespBody) : Prop :=
      exec (.operateAccess b) s = .next
        (State.finishAccess b (s.handAll [(p, { kind := 0x81, tag := tag, body := body })]))
    let unmet (outcome : OpOutcome) (v : Word) (o : Option Port) : RespBody :=
      .operate { outcome := outcome, old := v, new := v, owner := o, flags := compareFlags v op.cmp, wrapped := false }
    let creating : Prop := op.pred = .always ∧ op.own = .any ∧ op.upd = .set ∧ op.stamp ≠ .unstamp
    (s.readCell c = .void → ¬creating → answers (.refused .void)) ∧
    (s.readCell c = .lost → ¬creating → answers (.refused .lost)) ∧
    (s.readCell c = .void ∨ s.readCell c = .lost → creating → op.stamp = .stamp → 64 ≤ (s.stamps.get p).length →
      answers (.refused .stampFull)) ∧
    ∀ v o r, s.readCell c = .live v o r →
      (guardHolds op p v o = true → op.stamp = .stamp → o = none → 64 ≤ (s.stamps.get p).length →
        answers (.refused .stampFull)) ∧
      (guardHolds op p v o = false → op.patience = 0 → answers (unmet .false v o)) ∧
      (guardHolds op p v o = false → op.patience ≠ 0 → 24 ≤ s.park.length → answers (unmet .unparked v o)) ∧
      (guardHolds op p v o = false → op.patience ≠ 0 → (s.hpu p).port ≠ .up →
        exec (.operateAccess b) s = .next (State.finishAccess b s)) ∧
      (guardHolds op p v o = false → op.patience ≠ 0 → s.park.length < 24 → (s.hpu p).port = .up →
        exec (.operateAccess b) s = .next
          (State.finishAccess b
            { s with
              park := s.park ++
                [{ port := p, tag := tag, cell := c, op := op
                   deadline := if op.patience = 65535 then none else some (s.now + 1000 * op.patience)
                   lastValue := v, lastOwner := o, lastFlags := compareFlags v op.cmp }] }))

/-- A creating OPERATE on a VOID or LOST cell (R7) with an empty chain and no watch: the cell is LIVE with the update operand
and no recovery value, owned by the requester under STAMP and then last in its stamp list; it is answered DONE with old
value 0 and the flags of 0 less the compare operand, unless its port is no longer UP (R34). -/
def Obligations.CreatingOperateMakesTheCellLive : Prop :=
  ∀ (b : Bank) (s : State) (p : Port) (tag : Tag) (c : CellIx) (op : OpFields) (n : Nat),
    Performing b { port := p, tag := some tag, cell := c, work := .operate op, bypass := n } s →
    s.readCell c = .void ∨ s.readCell c = .lost → (∀ e ∈ s.park, e.cell ≠ c) → (∀ w ∈ s.watches, w.cell ≠ c) →
    op.pred = .always → op.own = .any → op.upd = .set →
    op.stamp = .keep ∨ op.stamp = .stamp ∧ (s.stamps.get p).length < 64 →
    let owner : Option Port := if op.stamp = .stamp then some p else none
    exec (.operateAccess b) s = .next
      (State.finishAccess b
        (State.handAll
          [(p,
            { kind := 0x81, tag := tag,
              body := .operate
               { outcome := .done, old := 0, new := op.arg, owner := owner, flags := compareFlags 0 op.cmp,
                 wrapped := false } })]
          { s with
            cells := s.cells.write c (.live op.arg owner none)
            stamps := if op.stamp = .stamp then s.stamps.set p (s.stamps.get p ++ [c]) else s.stamps }))

/-- An access that changed its cell (R7, R25 to R30, R47 to R51, R53, R67, R90, R165, R166), with any chain and any watches.
The cascade over a LIVE cell's chain is a run of the manual's passes: in each, from the oldest entry to the newest, a false
guard keeps the entry with its last evaluation renewed, and a true one ends it, executed and answered DONE or refused
STAMP_FULL; another pass follows as long as an executed entry changed the cell. After each pass overdue entries may
expire, which ones by a free value (notes/assumptions/28.md).
After an opening operation (`Opens`), an OPERATE that changed a LIVE cell, one that made a cell LIVE, or a recovery access
that acted, this cascade runs on the cell as that left it; the opening operation's response and then those of the released
entries, in the order made, are handed; the cell's watches are evaluated once; and the access ends (`State.closedBy`), a
recovery access counted and its walk going on. The opening operation's response reports the cell as the operation left it
(R30, R33); how the last sentence of R5 reads beside them is the model's deduction (notes/assumptions/30.md). Three orders
hold by the model's choice: a recovery access's firings stand before what its walk raises, where R74 and R166 leave the
order open (notes/assumptions/31.md); that walk goes on before another teardown's, which awaited this bank last, starts
(notes/assumptions/34.md); and its next recovery access joins before the opportunistic refresh of that end is tested, where
R103 leaves the order open (notes/assumptions/38.md). -/
def Obligations.ChangedCellsRunTheirCascade : Prop :=
  (∀ (c : CellIx) (s : State), (∃ v o r, s.readCell c = .live v o r) →
     CascadeRuns c s (s.cascade c).1 (s.cascade c).2) ∧
  ∀ (b : Bank) (a : Access) (s u : State) (opening : List (Port × Response)),
    Performing b a s → Opens a s u opening →
    let ended : State := State.closedBy b a (opening ++ (u.cascade a.cell).2) (u.cascade a.cell).1
    (∀ op, a.work = .operate op → exec (.operateAccess b) s = .next ended) ∧
    ∀ policy default, a.work = .recovery policy default → exec (.recoveryAccess b) s = .next ended

/-- A CANCEL, LEAVE or link loss that claims entries on the cells of accesses in progress that change them (R51, R56, R58,
R154, R162), on one cell or several. The Park List takes it before each access, or inside it after any of its cascade's
evaluations; which is a free value (notes/assumptions/29.md), as is the order in which several accesses come along and end
(notes/assumptions/3.md). Taken inside, it finds the entries as the evaluations left them: an entry they executed is not
found, its effects stand, and its response, which waits for the end of the access, comes behind the CANCEL's NOT_FOUND, or
is discarded after a teardown start; an entry they found false is CANCELLED with that evaluation, or removed. The cascade
then goes on without the entries removed, and each access ends as ChangedCellsRunTheirCascade gives, by the model's choices
named there; that a recovery access's own walk goes on before the departed port's, which awaited the bank too, starts is
one of them (notes/assumptions/34.md), and that its next recovery access joins before an opportunistic refresh is tested
another (notes/assumptions/38.md). That such a happening falls inside an access once at most is the model's form
(notes/assumptions/29.md). A LEAVE's OK and the teardown start are those of DepartureStartsTeardown. -/
def Obligations.ClaimsFallInsideAnAccess : Prop :=
  let takes (command : Instr) (s before : State) (claimed : ParkEntry → Prop) (taken : State → State) : Prop :=
    ∃ along order mid t,
      ComeAlong (fun c => ∃ e ∈ before.park, claimed e ∧ e.cell = c) along before mid ∧
      (along.map (fun x => x.bank)).Nodup ∧ order.Perm along ∧ GoOn order (taken mid) t ∧ exec command s = .next t
  (∀ (p : Port) (f : Frame) (s : State), Accepted .cancel p f s →
     takes (.cancel p f) s (s.admitted false p f) (fun e => e.port = p ∧ e.tag = f.targetTag) (fun u =>
       match u.park.find? (fun x => x.port == p && x.tag == f.targetTag) with
       | some x =>
         State.handed p
           [{ kind := 0x81, tag := x.tag,
              body := .operate
               { outcome := .cancelled, old := x.lastValue, new := x.lastValue, owner := x.lastOwner, flags := x.lastFlags,
                 wrapped := false } },
            { kind := 0x84, tag := f.tag, body := .ok }]
           (u.without x)
       | none => u.handed p [{ kind := 0x84, tag := f.tag, body := .refused .notFound }])) ∧
  ∀ (p : Port) (s : State), (s.hpu p).port = .up →
    (∀ f, Accepted .leave p f s →
      takes (.leave p f) s (s.admitted false p f) (fun e => e.port = p) (fun u =>
        State.startTeardown p .leave (u.handed p [{ kind := 0x94, tag := f.tag, body := .ok }]))) ∧
    (s.resetHigh = true → (s.hpu p).link = .alive →
      takes (.linkLoss p) s s (fun e => e.port = p) (fun u =>
        State.startTeardown p .link
          { u with
            hpus := u.hpus.set p
              { u.hpu p with
                link := .dead, recvTimer := none, sendTimer := none, sendList := [], tags := Eight.all .free
                heldJoin := none } }))

/-- The cascade's end (R48, R50): it leaves no entry on the cell whose guard holds on the cell as it stands, so each entry left
had a false guard at its last evaluation; it touches no other cell, no other chain and no event queue. The premise,
one entry for a port and a tag, is the tag rule (R41, R152), which EveryStepKeepsTheTags keeps. -/
def Obligations.CascadeReleasesWhatItCan : Prop :=
  ∀ (c : CellIx) (s : State),
    s.park.Pairwise (fun x y => ¬(x.port = y.port ∧ x.tag = y.tag)) →
    let left := (s.cascade c).1
    (∀ e ∈ left.park, e.cell = c → ∀ v o r, left.readCell c = .live v o r → guardHolds e.op e.port v o = false) ∧
    (∀ d, d ≠ c → left.readCell d = s.readCell d) ∧
    left.park.filter (fun e => e.cell != c) = s.park.filter (fun e => e.cell != c) ∧
    left.events = s.events ∧ left.watches = s.watches

/-! ### The other accesses (R15, R37 to R40, R65, R66, R135, R136, R163 to R166) -/

/-- Cell addressing (R4): bank, row and column by the formulas, each index named by exactly one of them; a group is found by
clearing the low four bits, and its cells share bank and row. -/
def Obligations.CellAddressing : Prop :=
  (∀ c : CellIx, c < 65536 →
    (bankOf c).val = c / 16 % 4 ∧ rowOf c = c / 64 ∧ columnOf c = c % 16 ∧ rowOf c ≤ 1023 ∧
    c = 64 * rowOf c + 16 * (bankOf c).val + columnOf c ∧ groupBase c = c / 16 * 16 ∧
    ∀ k, k < 16 → bankOf (groupBase c + k) = bankOf c ∧ rowOf (groupBase c + k) = rowOf c) ∧
  ∀ (b : Bank) (row col : Nat), row ≤ 1023 → col < 16 →
    cellAt b row col < 65536 ∧ bankOf (cellAt b row col) = b ∧ rowOf (cellAt b row col) = row ∧
      columnOf (cellAt b row col) = col

/-- GROUP_READ at its access (R37 to R40): sixteen entries, entry k for the cell in column (column + k) modulo 16 of the group,
each with the state, value and owner of a cell the requester may read and WITHHELD for any other; nothing is written. The
response is discarded when the requester's port is no longer UP (R34). -/
def Obligations.GroupReadReportsTheGroup : Prop :=
  ∀ (b : Bank) (s : State) (p : Port) (tag : Tag) (c : CellIx) (n : Nat),
    Performing b { port := p, tag := some tag, cell := c, work := .groupRead, bypass := n } s →
    ∃ entries,
      exec (.groupReadAccess b) s = .next
        (State.finishAccess b (s.handAll [(p, { kind := 0x82, tag := tag, body := .groupRead c entries })])) ∧
      entries.length = 16 ∧
      ∀ k, k < 16 →
        let d := c / 16 * 16 + (c % 16 + k) % 16
        let readable : Prop := ∃ e, s.table.regionOf d = some e ∧ e.rights.get p ≠ .none
        (¬readable → entries[k]? = some .withheld) ∧
        (readable → s.readCell d = .void → entries[k]? = some .void) ∧
        (readable → s.readCell d = .lost → entries[k]? = some .lost) ∧
        ∀ v o r, readable → s.readCell d = .live v o r → entries[k]? = some (.live v o)

/-- SET_RECOVERY at its access (R15): on a LIVE cell the recovery value becomes the one carried, or absent, and the one before is
returned; value, owner, stamp lists, chains and watches stay. On a VOID or LOST cell it is refused. The response is
discarded when the requester's port is no longer UP, and the effect stands (R34). -/
def Obligations.SetRecoveryReplacesTheRecoveryValue : Prop :=
  ∀ (b : Bank) (s : State) (p : Port) (tag : Tag) (c : CellIx) (new : Option Word) (n : Nat),
    Performing b { port := p, tag := some tag, cell := c, work := .setRecovery new, bypass := n } s →
    (∀ v o before, s.readCell c = .live v o before →
      exec (.setRecoveryAccess b) s = .next
        (State.finishAccess b
          (State.handAll [(p, { kind := 0x83, tag := tag, body := .setRecovery before })]
            { s with cells := s.cells.write c (.live v o new) }))) ∧
    (s.readCell c = .void → exec (.setRecoveryAccess b) s = .next
      (State.finishAccess b (s.handAll [(p, { kind := 0x83, tag := tag, body := .refused .void })]))) ∧
    (s.readCell c = .lost → exec (.setRecoveryAccess b) s = .next
      (State.finishAccess b (s.handAll [(p, { kind := 0x83, tag := tag, body := .refused .lost })])))

/-- WATCH at its access (R65, R66): on a LIVE cell with room the watch enters with the lowest free id and, for a predicate
trigger, the predicate's result, and the response carries id, value, owner and result; at 32 watches, or 12 of the
requester, it is refused WATCH_FULL; on a VOID or LOST cell VOID or LOST. With report-now, a CHANGE watch, and a predicate
watch whose predicate holds, fires once after the response; in mode ONCE it then leaves the table. When the requester's
port is no longer UP no watch is created and no response is sent (R34, R65). -/
def Obligations.WatchIsCreated : Prop :=
  ∀ (b : Bank) (s : State) (p : Port) (tag : Tag) (c : CellIx) (f : WatchFields) (n : Nat),
    Performing b { port := p, tag := some tag, cell := c, work := .watch f, bypass := n } s → s.TablesOk →
    let answers (body : RespBody) : Prop :=
      exec (.watchAccess b) s = .next
        (State.finishAccess b (s.handAll [(p, { kind := 0x85, tag := tag, body := body })]))
    (s.readCell c = .void → answers (.refused .void)) ∧
    (s.readCell c = .lost → answers (.refused .lost)) ∧
    ∀ v o r, s.readCell c = .live v o r →
      ((s.hpu p).port ≠ .up → exec (.watchAccess b) s = .next (State.finishAccess b s)) ∧
      (s.watches.length = 32 ∨ (s.watches.filter (fun w => w.port == p)).length = 12 →
        answers (.refused .watchFull)) ∧
      ((s.hpu p).port = .up → s.watches.length < 32 → (s.watches.filter (fun w => w.port == p)).length < 12 →
        ∃ lower higher id,
          s.watches = lower ++ higher ∧ lower.map (fun w => w.id) = List.range id ∧ (∀ w ∈ higher, id < w.id) ∧
          let last : Option Bool :=
            match f.trigger with
            | .change => none
            | .pred q cmp => some (predHolds q (compareFlags v cmp))
          let watched : State :=
            State.handAll [(p, { kind := 0x85, tag := tag, body := .watch id v o last })]
              { s with
                watches := lower ++
                  { id := id, port := p, cell := c, trigger := f.trigger, mode := f.mode, last := last } :: higher }
          let fires : Prop := f.reportNow = true ∧ (f.trigger = .change ∨ last = some true)
          (¬fires → exec (.watchAccess b) s = .next (State.finishAccess b watched)) ∧
          (fires → f.mode = .repeating →
            exec (.watchAccess b) s = .next (State.finishAccess b (watched.raise p (.watchFired id c v o)))) ∧
          (fires → f.mode = .once →
            exec (.watchAccess b) s = .next
              (State.finishAccess b { watched.raise p (.watchFired id c v o) with watches := s.watches })))

/-- The watch evaluation after an access that changed a cell (R67 to R70). Every watch on the cell takes the new result of its
predicate, one that fires in mode ONCE leaves, every other watch stays as it was, and each firing is one record, in
ascending order of id: a CHANGE watch fires always, a predicate watch when its last result was false and its predicate
holds. Cells and every other block are untouched. -/
def Obligations.WatchesAreEvaluatedOnce : Prop :=
  ∀ (c : CellIx) (s : State) (v : Word) (o : Option Port) (r : Option Word), s.readCell c = .live v o r →
    s.watches.Pairwise (fun x y => x.id < y.id) →
    let result (w : Watch) : Option Bool :=
      match w.trigger with
      | .change => none
      | .pred q cmp => some (predHolds q (compareFlags v cmp))
    let fires (w : Watch) : Bool :=
      w.cell == c &&
        match w.trigger with
        | .change => true
        | .pred q cmp => predHolds q (compareFlags v cmp) && w.last != some true
    s.evalWatches c =
      (s.watches.filter fires).foldl (fun t w => t.raise w.port (.watchFired w.id c v o))
        { s with
          watches := (s.watches.filter (fun w => !(fires w && w.mode == .once))).map
            (fun w => if w.cell = c then { w with last := result w } else w) }

/-- GROUP_WRITE (R135, R136, R138), in every configuration state and whatever teardown waits on it: every cell of the group
inside the range is LIVE with the request's value and recovery value and owner NONE, and leaves whichever stamp list holds
it, with its place among the cells a walk has passed; every other cell stays, and those of a list keep their order (R12).
The last one of the range answers the INIT_CELLS with the count and the group writes; an earlier one's next group write
joins the end of the following group's queue; the request of a port that is not UP ends without a response. The access
then ends as the statements on its end give, with the step to RUN or the start of a walk when its end brings them. That the
next group write has joined its queue before such a walk's recovery access does is the model's choice
(notes/assumptions/32.md), and so is that it has before the opportunistic refresh of that end is tested, where R103 leaves
the order open (notes/assumptions/38.md). -/
def Obligations.GroupWriteWritesTheCoveredCells : Prop :=
  ∀ (b : Bank) (s : State) (p : Port) (tag : Tag) (c : CellIx) (i : InitFields) (n next : Nat)
      (before after : List InitFlight),
    Performing b { port := p, tag := some tag, cell := c, work := .groupWrite i, bypass := n } s →
    s.config.inits = before ++ { port := p, tag := tag, init := i, nextGroup := next } :: after →
    (∀ x ∈ before ++ after, ¬(x.port = p ∧ x.tag = tag)) → s.StampsOk →
    let group := c / 16 * 16
    let covered (d : CellIx) : Bool := decide (group ≤ d ∧ d < group + 16 ∧ i.base ≤ d ∧ d < i.base + i.count)
    ∃ u, exec (.groupWrite b) s = .next (State.finishAccess b u) ∧
      (∀ d, u.readCell d = if covered d then .live i.value none i.recovery else s.readCell d) ∧
      (∀ q, u.stamps.get q = (s.stamps.get q).filter (fun d => !covered d)) ∧
      (∀ q, u.teardown.get q = (s.teardown.get q).map (fun r =>
        { r with passed := r.passed.filter (fun d => !(covered d && (s.stamps.get q).contains d)) })) ∧
      u.events = s.events ∧ u.park = s.park ∧ u.watches = s.watches ∧ u.table = s.table ∧ u.refresh = s.refresh ∧
      u.resetHigh = s.resetHigh ∧ u.now = s.now ∧ u.choices = s.choices ∧ u.pending = s.pending ∧
      u.config = { s.config with inits := u.config.inits } ∧
      ((s.hpu p).port ≠ .up → u.config.inits = before ++ after ∧ u.hpus = s.hpus ∧ u.banks = s.banks) ∧
      ((s.hpu p).port = .up → (s.hpu p).link = .alive → i.base + i.count ≤ group + 16 →
        u.config.inits = before ++ after ∧ u.banks = s.banks ∧
        u.hpus =
          (s.handed p
            [{ kind := 0x8F, tag := tag,
               body := .inited i.count ((i.base + i.count - 1) / 16 - i.base / 16 + 1) }]).hpus) ∧
      ((s.hpu p).port = .up → group + 16 < i.base + i.count →
        u.config.inits =
            before ++ { port := p, tag := tag, init := i, nextGroup := group + 16 } :: after ∧
        u.hpus = s.hpus ∧
        let first := max i.base (group + 16)
        let a : Access := { port := p, tag := some tag, cell := first, work := .groupWrite i, bypass := 0 }
        ∃ k, Joins s.refresh.hold a (s.bank (bankOf first)) k ∧ u.banks = s.banks.set (bankOf first) k)

/-- RECOVERY_ACCESS (R164 to R166). When the lost port still owns the cell, its owner becomes NONE and it leaves the stamp
list, the others keeping their order; RESTORE writes the cell's recovery value, or the default carried when it has none
(one is always carried, notes/assumptions/24.md), RELEASE keeps the value; the recovery value stays, and the count of the
policy rises. Here with an empty chain and no watch (ChangedCellsRunTheirCascade speaks of any). When it does not own the
cell, or the cell is VOID or LOST (R6), cell, lists and counts stay, whatever is parked or watches there. Either way the
walk goes on, as WalkTakesTheStampListInOrder gives for any list, policy and cells passed: its next recovery access joins
its queue, or the walk ends and teardown completes in this very command. Then the access ends. That this port's walk goes
on before another's, which awaited the bank last, starts is the model's choice (notes/assumptions/34.md), and so is that its
next recovery access joins before the opportunistic refresh of that end is tested, where R103 leaves the order open
(notes/assumptions/38.md). -/
def Obligations.RecoveryAccessReleasesTheCell : Prop :=
  ∀ (b : Bank) (s : State) (p : Port) (c : CellIx) (policy : LossPolicy) (default : Option Word) (n : Nat),
    Performing b { port := p, tag := none, cell := c, work := .recovery policy default, bypass := n } s →
    policy = .restore ∧ default ≠ none ∨ policy = .release →
    (∀ v r, s.readCell c = .live v (some p) r → (∀ x ∈ s.park, x.cell ≠ c) → (∀ w ∈ s.watches, w.cell ≠ c) →
      exec (.recoveryAccess b) s = .next
        (State.finishAccess b
          (State.walk p
            { s with
              cells := s.cells.write c (.live (if policy = .restore then r.getD (default.getD v) else v) none r)
              stamps := s.stamps.set p ((s.stamps.get p).filter (fun x => x != c))
              teardown := s.teardown.set p
                ((s.teardown.get p).map (fun rec =>
                  { rec with
                    passed := rec.passed.filter (fun x => x != c)
                    restored := if policy = .restore then rec.restored + 1 else rec.restored
                    released := if policy = .release then rec.released + 1 else rec.released })) }))) ∧
    ((s.readCell c).owner ≠ some p →
      exec (.recoveryAccess b) s = .next (State.finishAccess b (State.walk p s)))

/-- The walk (R162, R163, R164, R130), wherever it stands: the cells of the stamp list not yet passed are taken from the
front. It passes HOLD cells, counting each, and issues one recovery access for the first other cell: RESTORE with its
region's default, RELEASE without one, RELEASE too for a cell in no region. The access joins the end of its cell's bank
queue with bypass count 0, and a free bank with an empty queue picks it at once (R85, R89). With no cell left, or HOLD
cells alone, the walk ends at once and teardown completes, as TEARDOWN_COMPLETE completes it.
TEARDOWN_WALK_START begins it once no bank is awaited. Given while one is, or when the walk has begun already, it leaves the
state as it is, by the model's choice (notes/assumptions/7.md).
RECOVERY_ACCESS goes on with it (RecoveryAccessReleasesTheCell). -/
def Obligations.WalkTakesTheStampListInOrder : Prop :=
  ∀ (p : Port) (s : State) (rec : TeardownRec), s.resetHigh = true → s.teardown.get p = some rec →
    (∀ (held rest : List CellIx),
      (s.stamps.get p).filter (fun d => !rec.passed.contains d) = held ++ rest →
      (∀ d ∈ held, ∃ e, s.table.regionOf d = some e ∧ e.policy = .hold) →
      let onward (phase : Phase) (current : Option CellIx) : TeardownRec :=
        { rec with
          phase := phase, current := current, passed := rec.passed ++ held, held := rec.held + held.length }
      (rest = [] →
        exec (.teardownComplete p) { s with teardown := s.teardown.set p (some (onward .walking none)) } =
          .next (State.walk p s)) ∧
      ∀ c later, rest = c :: later →
        let issues (policy : LossPolicy) (default : Option Word) : Prop :=
          ∃ k,
            Joins s.refresh.hold { port := p, tag := none, cell := c, work := .recovery policy default, bypass := 0 }
              (s.bank (bankOf c)) k ∧
            State.walk p s =
              { s with
                teardown := s.teardown.set p (some (onward .recovering (some c)))
                banks := s.banks.set (bankOf c) k }
        (∀ e, s.table.regionOf c = some e → e.policy = .restore → issues .restore (some e.default)) ∧
        (∀ e, s.table.regionOf c = some e → e.policy = .release → issues .release none) ∧
        (s.table.regionOf c = none → issues .release none)) ∧
    (rec.phase = .awaiting → (∀ b, rec.awaited.get b = false) →
      exec (.teardownWalkStart p) s = .next (State.walk p s)) ∧
    (rec.phase ≠ .awaiting ∨ (∃ b, rec.awaited.get b = true) → exec (.teardownWalkStart p) s = .next s)

/-- TEARDOWN_COMPLETE (R167, R147, R156) with no quorum for its last step to find, be it for want of another UP port, or in
COMMITTING and DRAINING. PORT_CLEARED with the three counts goes to every other UP port, the record goes idle, and the port goes LINKED on an
ALIVE link and DOWN on a DEAD one, or UP with counter 0, attention on, PORT_JOINED to the others and its held JOIN
answered OK. The retention decision is then tested: it is taken as RETENTION_DECISION takes it when its conditions stand,
and otherwise nothing more happens. -/
def Obligations.TeardownCompletes : Prop :=
  ∀ (p : Port) (s : State) (rec : TeardownRec), s.resetHigh = true → s.teardown.get p = some rec →
    rec.phase = .walking → rec.current = none → (∀ c ∈ s.stamps.get p, c ∈ rec.passed) →
    s.config.state = .setup ∧ (∃ q, q ≠ p ∧ (s.hpu q).port = .up ∧ s.config.commits.get q ≠ some s.table.generation) ∨
      (s.config.state = .setup ∨ s.config.state = .run) ∧ (∀ q, q ≠ p → (s.hpu q).port ≠ .up) ∧
        s.config.commits.get p = none ∧ s.config.reopenVotes.get p = false ∨
      s.config.state = .run ∧ (∃ q, q ≠ p ∧ (s.hpu q).port = .up ∧ s.config.reopenVotes.get q = false) ∨
      s.config.state = .committing ∨ s.config.state = .draining →
    let cleared : State :=
      { State.raiseOthers p (.portCleared p rec.restored rec.released rec.held) s with
        teardown := s.teardown.set p none }
    let absent : State :=
      { cleared with
        hpus := s.hpus.set p { s.hpu p with port := if (s.hpu p).link = .alive then .linked else .down } }
    let joined (tag : Tag) : State :=
      State.handed p [{ kind := 0x93, tag := tag, body := .ok }]
        (State.raiseOthers p (.portJoined p)
          { cleared with
            hpus := s.hpus.set p { s.hpu p with heldJoin := none, port := .up }
            events := cleared.events.set p { cleared.eventPort p with seq := 0, attention := true } })
    ((s.hpu p).heldJoin = none →
      exec (.teardownComplete p) s = exec .retentionDecision absent ∧
      (¬RetentionAgreed absent → exec (.teardownComplete p) s = .next absent)) ∧
    ∀ tag, (s.hpu p).heldJoin = some tag → (s.hpu p).link = .alive →
      exec (.teardownComplete p) s = exec .retentionDecision (joined tag) ∧
      (¬RetentionAgreed (joined tag) → exec (.teardownComplete p) s = .next (joined tag))

/-! ### Refresh and retention (R97, R101 to R106, R110 to R115) -/

/-- REFRESH_INTERVAL_EXPIRY (R102 to R104, R106). A new interval of the set length begins. In ACTIVE and ENTERING, whatever the
banks do, the debt rises by 1 up to 6; at 6 the overrun flag is set, and the first time REFRESH_OVERRUN goes to every UP
port. In ACTIVE with the hold lifted, reaching 4 places the hold (R104), and so does an expiry that finds every queue
empty and no current access (R103): each READY bank begins to close its row, and when every bank is IDLE already and no
refresh is in progress the refresh begins at once. Otherwise nothing more changes. In RETAINED and WAKING the debt
stays. -/
def Obligations.IntervalExpiryOwesARefresh : Prop :=
  ∀ (s : State) (u : Nat), s.resetHigh = true → s.refresh.timer = some u →
    let began : RefreshCtl := { s.refresh with timer := some s.table.settings.interval }
    let flagged : State := { s with refresh := { began with overrun := true, overrunRaised := true } }
    let counted : State :=
      if s.refresh.debt < 6 then { s with refresh := { began with debt := s.refresh.debt + 1 } }
      else if s.refresh.overrunRaised = true then flagged
      else flagged.raiseAll .refreshOverrun
    let places : Prop :=
      s.refresh.power = .active ∧ s.refresh.hold = false ∧
        (s.refresh.debt = 3 ∨ ∀ b, (s.bank b).queue = [] ∧ (s.bank b).current = none)
    let closed : Prop := ∀ b, (s.bank b).state = .idle ∧ (s.bank b).current = none
    (s.refresh.power = .active ∨ s.refresh.power = .entering →
      (¬places → exec .refreshIntervalExpiry s = .next counted) ∧
      (places → ¬closed ∨ s.refresh.refreshing = true →
        exec .refreshIntervalExpiry s = .next
          { counted with
            refresh := { counted.refresh with hold := true }
            banks := s.banks.map (fun k =>
              match k.state with
              | .ready row => { k with state := .closing row }
              | _ => k) }) ∧
      (places → closed → s.refresh.refreshing = false →
        exec .refreshIntervalExpiry s = .next
          { counted with
            refresh := { counted.refresh with hold := true, refreshing := true }
            banks := s.banks.map (fun k => { k with state := .refreshing }) })) ∧
    (s.refresh.power = .retained ∨ s.refresh.power = .waking →
      exec .refreshIntervalExpiry s = .next { s with refresh := began })

/-- REFRESH_START and REFRESH_END (R97, R105). A refresh begins in ACTIVE when the hold is placed and every bank is closed. At
its end the debt falls by 1; with 4 or more left, or 1 to 3 and every queue empty, another begins at once; otherwise, here
with an entry waiting or nothing owed, the hold is lifted and each bank with a queue picks its oldest entry. In ENTERING
(R111) none follows: the hold stays, the banks are IDLE, and the placing of the storage in retention begins. -/
def Obligations.RefreshStartsAndEnds : Prop :=
  ∀ s : State, s.resetHigh = true → s.refresh.hold = true →
    (s.refresh.refreshing = false → s.refresh.power = .active →
      (∀ b, (s.bank b).state = .idle ∧ (s.bank b).current = none) →
      exec .refreshStart s = .next
        { s with
          banks := s.banks.map (fun k => { k with state := .refreshing })
          refresh := { s.refresh with refreshing := true } }) ∧
    (s.refresh.refreshing = true → s.refresh.power = .active →
      (∀ b, (s.bank b).state = .refreshing ∧ (s.bank b).current = none) →
      (5 ≤ s.refresh.debt ∨ 2 ≤ s.refresh.debt ∧ ∀ b, (s.bank b).queue = []) →
      exec .refreshEnd s = .next { s with refresh := { s.refresh with debt := s.refresh.debt - 1 } }) ∧
    (s.refresh.refreshing = true → s.refresh.power = .active →
      (∀ b, (s.bank b).state = .refreshing ∧ (s.bank b).current = none) →
      (s.refresh.debt ≤ 1 ∨ s.refresh.debt ≤ 4 ∧ ∃ b, (s.bank b).queue ≠ []) →
      exec .refreshEnd s = .next
        { s with
          banks := s.banks.map (fun k =>
            match k.queue with
            | [] => { k with state := .idle }
            | a :: rest => { state := .opening (a.cell / 64), current := some a, queue := rest })
          refresh := { s.refresh with debt := s.refresh.debt - 1, hold := false, refreshing := false } }) ∧
    (s.refresh.refreshing = true → s.refresh.power = .entering → s.refresh.placing = none →
      (∀ b, (s.bank b).state = .refreshing ∧ (s.bank b).current = none) →
      exec .refreshEnd s = .next
        { s with
          banks := s.banks.map (fun k => { k with state := .idle })
          refresh :=
            { s.refresh with
              debt := s.refresh.debt - 1, refreshing := false, placing := some s.table.settings.mask } })

/-- RETENTION_DECISION and RETENTION_PLACING_START (R110, R111). The decision is taken in RUN and ACTIVE when at least one port is
UP, every UP port has voted, nothing is parked, no tag is outstanding and no port is in CLEARING: the part goes ENTERING,
and the hold is placed, the banks closing their rows, or stays placed. While a refresh is in progress or a bank is not
closed nothing more happens at once; with every bank closed the placing begins, reading the mask. RETENTION_PLACING_START
begins it once every bank is closed under the hold and no refresh is in progress. Given short of its conditions,
RETENTION_DECISION leaves the state as it is, by the model's choice (notes/assumptions/7.md). -/
def Obligations.RetentionIsDecidedAndPlaced : Prop :=
  ∀ s : State, s.resetHigh = true →
    let closed : Prop := ∀ b, (s.bank b).state = .idle ∧ (s.bank b).current = none
    let closing : Four BankCtl := s.banks.map (fun k =>
      match k.state with
      | .ready row => { k with state := .closing row }
      | _ => k)
    (¬RetentionAgreed s → exec .retentionDecision s = .next s) ∧
    (RetentionAgreed s → ¬closed ∨ s.refresh.refreshing = true →
      exec .retentionDecision s = .next
        { s with refresh := { s.refresh with power := .entering, hold := true }
                 banks := if s.refresh.hold = true then s.banks else closing }) ∧
    (RetentionAgreed s → closed → s.refresh.refreshing = false → s.refresh.placing = none →
      exec .retentionDecision s = .next
        { s with
          refresh := { s.refresh with power := .entering, hold := true, placing := some s.table.settings.mask } }) ∧
    (s.refresh.power = .entering → s.refresh.hold = true → s.refresh.refreshing = false → s.refresh.placing = none →
      closed →
      exec .retentionPlacingStart s = .next
        { s with refresh := { s.refresh with placing := some s.table.settings.mask } })

/-- RETENTION_ENTRY (R112, R113, R71, R114), in ENTERING with the placing begun under a mask: every cell of a bank outside it is
LOST, in no stamp list and not among the cells a walk has passed (R163), every other cell and place keeps, and so does the
rest of each teardown record (R170); the debt is 0 and no vote stands; banks inside go PRESERVED and
outside OFF under the hold; the part is RETAINED, or WAKING when WAKEs are held. Each watch on a LIVE cell that was lost
raises CELL_LOST, in ascending order of cell and id, before RETAINING goes to every UP port; those in mode ONCE leave, and
those in mode REPEAT stay with a predicate's last result false. -/
def Obligations.RetentionEntryLosesTheUnmaskedBanks : Prop :=
  ∀ (s : State) (mask : BitVec 4), s.resetHigh = true → s.refresh.power = .entering → s.refresh.placing = some mask →
    s.watches.Pairwise (fun v w => v.id < w.id) →
    let kept (c : CellIx) : Bool := mask.getLsbD (c / 16 % 4)
    let hit (w : Watch) : Bool := !kept w.cell && (s.readCell w.cell).isLive
    ∃ t, exec .retentionEntry s = .next t ∧
      (∀ c, kept c = true → t.readCell c = s.readCell c) ∧ (∀ c, kept c = false → t.readCell c = .lost) ∧
      (∀ p, t.stamps.get p = (s.stamps.get p).filter kept) ∧
      (∀ p, t.teardown.get p = (s.teardown.get p).map (fun r => { r with passed := r.passed.filter kept })) ∧
      t.watches =
        (s.watches.filter (fun w => !(hit w && w.mode == .once))).map (fun w =>
          if hit w then
            { w with
              last := match w.trigger with
                | .change => none
                | .pred _ _ => some false }
          else w) ∧
      t.refresh =
        { s.refresh with
          debt := 0, votes := Four.all false, placing := none
          power := if s.refresh.heldWakes = [] then .retained else .waking } ∧
      (∀ b, t.bank b = { s.bank b with state := if mask.getLsbD b.val then .preserved else .off }) ∧
      t.park = s.park ∧ t.hpus = s.hpus ∧ t.config = s.config ∧ t.table = s.table ∧
      ∃ fired : List Watch,
        fired.Perm (s.watches.filter hit) ∧
        fired.Pairwise (fun v w => v.cell < w.cell ∨ v.cell = w.cell ∧ v.id < w.id) ∧
        t.events =
          (State.raiseAll .retaining (fired.foldl (fun u w => u.raise w.port (.cellLost w.id w.cell)) s)).events

/-- RETENTION_EXIT_END (R115), in WAKING: every bank goes IDLE and picks its oldest waiting entry, the debt is 0, a new interval
begins, the hold is lifted, the part is ACTIVE, the held WAKEs are answered OK in the order taken, and AWAKE is raised for
every UP port. No cell changes. -/
def Obligations.RetentionExitRestoresTheBanks : Prop :=
  ∀ s : State, s.resetHigh = true → s.refresh.power = .waking → (∀ b, (s.bank b).current = none) →
    exec .retentionExitEnd s = .next
      (State.raiseAll .awake
        (State.replyHeld 0x8B .ok s.refresh.heldWakes
          { s with
            banks := s.banks.map (fun k =>
              match k.queue with
              | [] => { k with state := .idle }
              | a :: rest => { state := .opening (a.cell / 64), current := some a, queue := rest })
            refresh :=
              { s.refresh with
                timer := some s.table.settings.interval, debt := 0, hold := false, power := .active
                heldWakes := [] } }))

/-- Responses to held requests (R140, R142, R145, R115, R154): each joins its port's send list in the order held, when the link is
ALIVE; nothing else changes.
The responses an access hands at its end (R34, R51, R154): each joins its port's send list in the order made, when the port
is UP and its link ALIVE; nothing else changes.
Events (R74 to R77): an event for every UP port, or for every UP port other than one, is numbered by each port's counter,
which advances modulo 65,536, and joins the end of its queue, unless that holds 16 records; a port that is not UP takes
nothing; nothing else changes. -/
def Obligations.AnswersAndEventsReachTheirPorts : Prop :=
  (∀ (kind : Byte) (body : RespBody) (held : List (Port × Tag)) (s : State),
     ∃ hpus, State.replyHeld kind body held s = { s with hpus := hpus } ∧
       ∀ p, hpus.get p =
         { s.hpu p with
           sendList := (s.hpu p).sendList ++
             if (s.hpu p).link = .alive then
               (held.filter (fun x => x.1 == p)).map (fun x => { kind := kind, tag := x.2, body := body })
             else [] }) ∧
  (∀ (answers : List (Port × Response)) (s : State),
     ∃ hpus, s.handAll answers = { s with hpus := hpus } ∧
       ∀ p, hpus.get p =
         { s.hpu p with
           sendList := (s.hpu p).sendList ++
             if (s.hpu p).port = .up ∧ (s.hpu p).link = .alive then
               (answers.filter (fun x => x.1 == p)).map (fun x => x.2)
             else [] }) ∧
  (∀ (e : Event) (s : State),
     let taken (q : Port) : EventPort :=
       if (s.hpu q).port = .up then
         { s.eventPort q with
           queue :=
             if (s.eventPort q).queue.length < 16 then
               (s.eventPort q).queue ++ [{ seq := (s.eventPort q).seq, event := e }]
             else (s.eventPort q).queue
           seq := (s.eventPort q).seq + 1 }
       else s.eventPort q
     (∃ events, s.raiseAll e = { s with events := events } ∧ ∀ q, events.get q = taken q) ∧
     ∀ p, ∃ events, s.raiseOthers p e = { s with events := events } ∧
       ∀ q, events.get q = if q = p then s.eventPort q else taken q)

/-- The frames of the part's responses, and the fields of each at the bits 11.3 gives them, with its codes and every reserved
bit 0 (R171, R173, R33, R39, R78, R158): the status word alone when refused, the two entry numbers beside OVERLAP, and
otherwise the payload of the request's kind, absent fields sent as R173 says. The bounds on the fields are those the part
keeps. -/
def Obligations.ResponsesAreLaidOut : Prop :=
  (∀ r : Response, r.body.words.length < 256 →
     frameCheckOk r.words = true ∧
     readHeader r.words =
       (r.kind, { tag := r.tag, length := BitVec.ofNat 8 r.body.words.length, payload := r.body.words })) ∧
  let flag (x : Bool) : Nat := if x then 1 else 0
  let owner (o : Option Port) : Nat :=
    match o with
    | some p => p.val
    | none => 4
  (∀ st, ∃ w, RespBody.words (.refused st) = [w] ∧
     [Status.ok, .badKind, .badField, .notJoined, .notRunning, .notSetup, .asleep, .noRegion, .denied, .void, .lost,
       .stampFull, .watchFull, .stale, .overlap, .superseded, .notFound][w.toNat]? = some st) ∧
  (∀ i j, i < 16 → j < 16 →
     ∃ w, RespBody.words (.overlap i j) = [w] ∧ carries w [(0, 8, 14), (16, 4, i), (20, 4, j)]) ∧
  RespBody.ok.words = [0] ∧
  (∀ r : OpReport, ∃ w, RespBody.words (.operate r) = [w, r.old, r.new] ∧
     carries w
       [(8, 3, [OpOutcome.done, .false, .unparked, .expired, .cancelled, .withdrawn].idxOf r.outcome),
        (16, 1, flag r.flags.c), (17, 1, flag r.flags.z), (18, 1, flag r.flags.n), (19, 1, flag r.flags.v),
        (20, 1, flag r.wrapped), (24, 3, owner r.owner)]) ∧
  (∀ (c : CellIx) (es : List GroupEntry), c < 65536 →
     ∃ (w : Word) (ws : List (List Word)),
       RespBody.words (.groupRead c es) = 0 :: w :: ws.flatten ∧ carries w [(0, 16, c)] ∧ ws.length = es.length ∧
       ∀ (k : Nat) (e : GroupEntry), es[k]? = some e →
         ∃ x y, ws[k]? = some [x, y] ∧
           (e = .void → carries x [(0, 2, 0), (4, 3, 4)] ∧ y = 0) ∧
           (∀ v o, e = .live v o → carries x [(0, 2, 1), (4, 3, owner o)] ∧ y = v) ∧
           (e = .lost → carries x [(0, 2, 2), (4, 3, 4)] ∧ y = 0) ∧
           (e = .withheld → carries x [(0, 2, 3), (4, 3, 7)] ∧ y = 0)) ∧
  (∀ previous, ∃ w, RespBody.words (.setRecovery previous) = [w, previous.getD 0] ∧
     carries w [(8, 1, flag previous.isSome)]) ∧
  (∀ i v o last, i < 32 → ∃ w, RespBody.words (.watch i v o last) = [w, v] ∧
     carries w [(8, 5, i), (16, 1, flag last.isSome), (17, 1, flag (last == some true)), (24, 3, owner o)]) ∧
  (∀ (rs : List EventRecord) (remaining : Nat), rs.length ≤ 4 → remaining ≤ 16 →
     ∃ (w : Word) (ws : List (List Word)),
       RespBody.words (.events rs remaining) = w :: ws.flatten ∧ carries w [(8, 3, rs.length), (16, 5, remaining)] ∧
       ws.length = rs.length ∧
       ∀ (k : Nat) (r : EventRecord), rs[k]? = some r →
         ∃ x y z, ws[k]? = some [x, y, z] ∧
           let kind (code : Nat) : Prop := carries x [(0, 8, code), (16, 16, r.seq.toNat)]
           (∀ i c v o, r.event = .watchFired i c v o → i < 32 → c < 65536 →
             kind 1 ∧ carries y [(0, 8, i), (8, 3, owner o), (16, 16, c)] ∧ z = v) ∧
           (∀ i c, r.event = .cellLost i c → i < 32 → c < 65536 →
             kind 2 ∧ carries y [(0, 8, i), (8, 3, 7), (16, 16, c)] ∧ z = 0) ∧
           (∀ p, r.event = .portJoined p → kind 3 ∧ carries y [(0, 2, p.val)] ∧ z = 0) ∧
           (∀ p reason, r.event = .portLost p reason →
             kind 4 ∧ carries y [(0, 2, p.val), (8, 1, flag (reason == .leave))] ∧ z = 0) ∧
           (∀ p restored released held, r.event = .portCleared p restored released held →
             restored ≤ 64 → released ≤ 64 → held ≤ 64 →
             kind 5 ∧ carries y [(0, 2, p.val)] ∧ carries z [(0, 8, restored), (8, 8, released), (16, 8, held)]) ∧
           (r.event = .running → kind 6 ∧ y = 0 ∧ z = 0) ∧ (r.event = .reconfigured → kind 7 ∧ y = 0 ∧ z = 0) ∧
           (r.event = .retaining → kind 8 ∧ y = 0 ∧ z = 0) ∧ (r.event = .awake → kind 9 ∧ y = 0 ∧ z = 0) ∧
           (r.event = .refreshOverrun → kind 10 ∧ y = 0 ∧ z = 0) ∧
           (∀ reason tag code, r.event = .portFault reason tag code →
             kind 11 ∧ z = 0 ∧
             carries y
               [(0, 2, [FaultReason.tagInUse, .frameCheck, .frameLength].idxOf reason + 1), (8, 1, flag tag.isSome),
                (9, 1, flag code.isSome), (16, 3, (tag.getD 0).val), (24, 8, (code.getD 0).toNat)])) ∧
  (∀ g, ∃ w, RespBody.words (.written g) = [w] ∧ carries w [(16, 16, g.toNat)]) ∧
  (∀ (selector : Nat) (e : RegionEntry) (g : Count16), selector < 16 → e.base < 65536 → e.length ≤ 65536 →
     ∃ w a b c, RespBody.words (.region selector e g) = [w, a, b, c, e.default] ∧
       carries w [(8, 8, selector), (16, 16, g.toNat)] ∧
       carries a
         ([(0, 8, selector), (8, 1, flag e.valid), (9, 2, [LossPolicy.restore, .release, .hold].idxOf e.policy)] ++
           allFour.map (fun p => (16 + 2 * p.val, 2, [Right.none, .read, .update].idxOf (e.rights.get p)))) ∧
       carries b [(0, 16, e.base)] ∧ carries c [(0, 17, e.length)]) ∧
  (∀ (x : Settings) (g : Count16), x.interval < 256 →
     ∃ w v, RespBody.words (.settings x g) = [w, v] ∧ carries w [(8, 8, 16), (16, 16, g.toNat)] ∧
       carries v [(0, 8, x.interval), (8, 2, [PagePolicy.opened, .closed].idxOf x.page), (16, 4, x.mask.toNat)]) ∧
  (∀ cells groups, cells ≤ 65536 → groups ≤ 4096 →
     ∃ w v, RespBody.words (.inited cells groups) = [0, w, v] ∧ w.toNat = cells ∧ v.toNat = groups) ∧
  ∀ r : StatusReport, r.occupancy ≤ 24 → r.freeWatches ≤ 32 → r.stampCount ≤ 64 → r.eventCount ≤ 16 →
    ∃ w a b, RespBody.words (.status r) = [w, a, b] ∧ carries w [(16, 16, r.generation.toNat)] ∧
      carries a
        ([(0, 2, [CfgState.setup, .committing, .run, .draining].idxOf r.config),
          (4, 2, [PowerState.active, .entering, .retained, .waking].idxOf r.power), (8, 1, flag r.overrun)] ++
          allFour.map (fun p => (16 + 2 * p.val, 2, [PortState.down, .linked, .up, .clearing].idxOf (r.ports.get p)))) ∧
      carries b [(0, 5, r.occupancy), (8, 6, r.freeWatches), (16, 7, r.stampCount), (24, 5, r.eventCount)]

/-! ### Invariants -/

/-- The Cell Store's canonical form, which is the model's (notes/assumptions/14.md), and that the part holds no index of a cell
it does not have (R1, R4, R134), are kept by every step from every state. -/
def Obligations.EveryStepKeepsTheCellStore : Prop :=
  ∀ s t : State, s.CellsOk → step s = .next t → t.CellsOk

/-- R10: the agreement of owners and stamp lists is kept by every step from every state: a cell is in a port's list exactly
when that port owns it, each once, and no list exceeds 64. -/
def Obligations.EveryStepKeepsOwnersAndStampLists : Prop :=
  ∀ s t : State, s.StampsOk → step s = .next t → t.StampsOk

/-- The capacities of the Park List, Watch Table, event queues, refresh debt and Region Table are kept by every step from every
state (R41, R63, R74, R102, R119).
R84, R88: no bypass count exceeds 4 or that of an older entry, and every entry waits at the bank of its cell; kept by every
step from every state. -/
def Obligations.EveryStepKeepsCapacitiesAndBankQueues : Prop :=
  (∀ s t : State, s.TablesOk → step s = .next t → t.TablesOk) ∧
  (∀ s t : State, s.QueuesOk → step s = .next t → t.QueuesOk)

/-- R83, R96, R97, R105, R111 to R113: the agreement of bank states, hold, refresh in progress and power state is kept by every
step from every state; so while the part is RETAINED every bank is PRESERVED or OFF and the debt is 0. -/
def Obligations.EveryStepKeepsBanksAndPowerInStep : Prop :=
  ∀ s t : State, s.BanksOk → step s = .next t → t.BanksOk

/-- R41, R63, R77, R146, R147, R159: the agreement of link state, port state, teardown record and everything a port may hold is
kept by every step from every state; so a port that is not UP holds no parked entry, watch, event, vote or held request. -/
def Obligations.EveryStepKeepsThePorts : Prop :=
  ∀ s t : State, s.PortsOk → step s = .next t → t.PortsOk

/-- R152, R84, R41, R86: what waits for its response (a parked operation, a cell request queued or current, an INIT_CELLS in
flight, a held request, a response not yet sent) has its tag OUTSTANDING, no two of these share port and tag, and each
INIT_CELLS in flight has one group write issued; so no bank queue holds two entries with the same port and tag. With the
ports' agreement it is kept by every step from every state. -/
def Obligations.EveryStepKeepsTheTags : Prop :=
  ∀ s t : State, s.PortsOk → s.TagsOk → step s = .next t → t.TagsOk

/-- Every invariant holds at `State.reset`. -/
def Obligations.ResetMeetsEveryInvariant : Prop :=
  State.reset.CellsOk ∧ State.reset.StampsOk ∧ State.reset.TablesOk ∧ State.reset.QueuesOk ∧ State.reset.BanksOk ∧
    State.reset.PortsOk ∧ State.reset.TagsOk
end

