-- ==== Sys2Proof/Laws/Tables.lean ====
section
/-!
SUPPORT. The laws of the tables of four and of eight: what a replaced entry reads as, and that every other entry
stays.
-/
namespace Sys2Proof

@[simp] theorem Four.get_set_same {α : Type} (x : Four α) (i : Fin 4) (v : α) : (x.set i v).get i = v := by
  fin_cases i <;> rfl

@[simp] theorem Four.get_set_other {α : Type} (x : Four α) {i j : Fin 4} (v : α) (h : j ≠ i) :
    (x.set i v).get j = x.get j := by
  fin_cases i <;> fin_cases j <;> first | rfl | exact absurd rfl h

theorem Four.get_set {α : Type} (x : Four α) (i j : Fin 4) (v : α) :
    (x.set i v).get j = if j = i then v else x.get j := by
  by_cases h : j = i
  · subst h; simp
  · simp [h]

@[simp] theorem Four.get_all {α : Type} (v : α) (i : Fin 4) : (Four.all v).get i = v := by
  fin_cases i <;> rfl

@[simp] theorem Four.get_map {α β : Type} (f : α → β) (x : Four α) (i : Fin 4) : (x.map f).get i = f (x.get i) := by
  fin_cases i <;> rfl

theorem Four.eq_of_get {α : Type} {x y : Four α} (h : ∀ i, x.get i = y.get i) : x = y := by
  obtain ⟨a, b, c, d⟩ := x
  obtain ⟨a', b', c', d'⟩ := y
  have h0 : a = a' := h 0
  have h1 : b = b' := h 1
  have h2 : c = c' := h 2
  have h3 : d = d' := h 3
  subst h0 h1 h2 h3
  rfl

@[simp] theorem Four.set_set {α : Type} (x : Four α) (i : Fin 4) (v w : α) : (x.set i v).set i w = x.set i w := by
  fin_cases i <;> rfl

@[simp] theorem Four.set_get {α : Type} (x : Four α) (i : Fin 4) : x.set i (x.get i) = x := by
  fin_cases i <;> rfl

@[simp] theorem Four.map_set {α β : Type} (f : α → β) (x : Four α) (i : Fin 4) (v : α) :
    (x.set i v).map f = (x.map f).set i (f v) := by
  fin_cases i <;> rfl

@[simp] theorem Four.map_all {α β : Type} (f : α → β) (v : α) : (Four.all v).map f = Four.all (f v) := rfl

theorem Four.map_map {α β γ : Type} (f : α → β) (g : β → γ) (x : Four α) : (x.map f).map g = x.map (fun v => g (f v)) :=
  rfl

theorem Four.map_eq_self {α : Type} {f : α → α} {x : Four α} (h : ∀ i, f (x.get i) = x.get i) : x.map f = x :=
  Four.eq_of_get (fun i => by simp [h])

theorem Four.mem_toList {α : Type} {x : Four α} {v : α} : v ∈ x.toList ↔ ∃ i, x.get i = v := by
  constructor
  · intro h
    simp only [Four.toList, List.mem_cons, List.not_mem_nil, or_false] at h
    obtain h | h | h | h := h
    · exact ⟨0, h.symm⟩
    · exact ⟨1, h.symm⟩
    · exact ⟨2, h.symm⟩
    · exact ⟨3, h.symm⟩
  · rintro ⟨i, rfl⟩
    fin_cases i <;> simp [Four.toList, Four.get]

theorem Four.all_toList {α : Type} {x : Four α} {q : α → Bool} : x.toList.all q = true ↔ ∀ i, q (x.get i) = true := by
  rw [List.all_eq_true]
  exact ⟨fun h i => h _ (Four.mem_toList.2 ⟨i, rfl⟩), fun h v hv => by
    obtain ⟨i, rfl⟩ := Four.mem_toList.1 hv
    exact h i⟩

@[simp] theorem mem_allFour (i : Fin 4) : i ∈ allFour := by fin_cases i <;> decide

theorem allFour_all {q : Fin 4 → Bool} : allFour.all q = true ↔ ∀ i, q i = true := by
  simp [List.all_eq_true]

@[simp] theorem Eight.get_set_same {α : Type} (x : Eight α) (i : Fin 8) (v : α) : (x.set i v).get i = v := by
  fin_cases i <;> rfl

@[simp] theorem Eight.get_set_other {α : Type} (x : Eight α) {i j : Fin 8} (v : α) (h : j ≠ i) :
    (x.set i v).get j = x.get j := by
  fin_cases i <;> fin_cases j <;> first | rfl | exact absurd rfl h

@[simp] theorem Eight.get_all {α : Type} (v : α) (i : Fin 8) : (Eight.all v).get i = v := by
  fin_cases i <;> rfl

@[simp] theorem Eight.set_set {α : Type} (x : Eight α) (i : Fin 8) (v w : α) : (x.set i v).set i w = x.set i w := by
  fin_cases i <;> rfl

end Sys2Proof
end

