-- ==== Sys2Proof/Laws/State.lean ====
section
/-!
SUPPORT. One law per field of the state for each of the six ways a block's part of the state is changed, and what the
block's own part reads as after it.
-/
namespace Sys2Proof.Machine

/-! ### modHpu -/

section
variable (s : State) (p : Port) (f : Hpu → Hpu)

@[simp] theorem State.modHpu_cells : (s.modHpu p f).cells = s.cells := rfl
@[simp] theorem State.modHpu_stamps : (s.modHpu p f).stamps = s.stamps := rfl
@[simp] theorem State.modHpu_park : (s.modHpu p f).park = s.park := rfl
@[simp] theorem State.modHpu_watches : (s.modHpu p f).watches = s.watches := rfl
@[simp] theorem State.modHpu_events : (s.modHpu p f).events = s.events := rfl
@[simp] theorem State.modHpu_hpus : (s.modHpu p f).hpus = s.hpus.set p (f (s.hpus.get p)) := rfl
@[simp] theorem State.modHpu_banks : (s.modHpu p f).banks = s.banks := rfl
@[simp] theorem State.modHpu_table : (s.modHpu p f).table = s.table := rfl
@[simp] theorem State.modHpu_config : (s.modHpu p f).config = s.config := rfl
@[simp] theorem State.modHpu_refresh : (s.modHpu p f).refresh = s.refresh := rfl
@[simp] theorem State.modHpu_teardown : (s.modHpu p f).teardown = s.teardown := rfl
@[simp] theorem State.modHpu_resetHigh : (s.modHpu p f).resetHigh = s.resetHigh := rfl
@[simp] theorem State.modHpu_now : (s.modHpu p f).now = s.now := rfl
@[simp] theorem State.modHpu_choices : (s.modHpu p f).choices = s.choices := rfl
@[simp] theorem State.modHpu_pending : (s.modHpu p f).pending = s.pending := rfl

end

/-! ### modBank -/

section
variable (s : State) (b : Bank) (f : BankCtl → BankCtl)

@[simp] theorem State.modBank_cells : (s.modBank b f).cells = s.cells := rfl
@[simp] theorem State.modBank_stamps : (s.modBank b f).stamps = s.stamps := rfl
@[simp] theorem State.modBank_park : (s.modBank b f).park = s.park := rfl
@[simp] theorem State.modBank_watches : (s.modBank b f).watches = s.watches := rfl
@[simp] theorem State.modBank_events : (s.modBank b f).events = s.events := rfl
@[simp] theorem State.modBank_hpus : (s.modBank b f).hpus = s.hpus := rfl
@[simp] theorem State.modBank_banks : (s.modBank b f).banks = s.banks.set b (f (s.banks.get b)) := rfl
@[simp] theorem State.modBank_table : (s.modBank b f).table = s.table := rfl
@[simp] theorem State.modBank_config : (s.modBank b f).config = s.config := rfl
@[simp] theorem State.modBank_refresh : (s.modBank b f).refresh = s.refresh := rfl
@[simp] theorem State.modBank_teardown : (s.modBank b f).teardown = s.teardown := rfl
@[simp] theorem State.modBank_resetHigh : (s.modBank b f).resetHigh = s.resetHigh := rfl
@[simp] theorem State.modBank_now : (s.modBank b f).now = s.now := rfl
@[simp] theorem State.modBank_choices : (s.modBank b f).choices = s.choices := rfl
@[simp] theorem State.modBank_pending : (s.modBank b f).pending = s.pending := rfl

end

/-! ### modEvents -/

section
variable (s : State) (p : Port) (f : EventPort → EventPort)

@[simp] theorem State.modEvents_cells : (s.modEvents p f).cells = s.cells := rfl
@[simp] theorem State.modEvents_stamps : (s.modEvents p f).stamps = s.stamps := rfl
@[simp] theorem State.modEvents_park : (s.modEvents p f).park = s.park := rfl
@[simp] theorem State.modEvents_watches : (s.modEvents p f).watches = s.watches := rfl
@[simp] theorem State.modEvents_events : (s.modEvents p f).events = s.events.set p (f (s.events.get p)) := rfl
@[simp] theorem State.modEvents_hpus : (s.modEvents p f).hpus = s.hpus := rfl
@[simp] theorem State.modEvents_banks : (s.modEvents p f).banks = s.banks := rfl
@[simp] theorem State.modEvents_table : (s.modEvents p f).table = s.table := rfl
@[simp] theorem State.modEvents_config : (s.modEvents p f).config = s.config := rfl
@[simp] theorem State.modEvents_refresh : (s.modEvents p f).refresh = s.refresh := rfl
@[simp] theorem State.modEvents_teardown : (s.modEvents p f).teardown = s.teardown := rfl
@[simp] theorem State.modEvents_resetHigh : (s.modEvents p f).resetHigh = s.resetHigh := rfl
@[simp] theorem State.modEvents_now : (s.modEvents p f).now = s.now := rfl
@[simp] theorem State.modEvents_choices : (s.modEvents p f).choices = s.choices := rfl
@[simp] theorem State.modEvents_pending : (s.modEvents p f).pending = s.pending := rfl

end

/-! ### modRefresh -/

section
variable (s : State) (f : RefreshCtl → RefreshCtl)

@[simp] theorem State.modRefresh_cells : (s.modRefresh f).cells = s.cells := rfl
@[simp] theorem State.modRefresh_stamps : (s.modRefresh f).stamps = s.stamps := rfl
@[simp] theorem State.modRefresh_park : (s.modRefresh f).park = s.park := rfl
@[simp] theorem State.modRefresh_watches : (s.modRefresh f).watches = s.watches := rfl
@[simp] theorem State.modRefresh_events : (s.modRefresh f).events = s.events := rfl
@[simp] theorem State.modRefresh_hpus : (s.modRefresh f).hpus = s.hpus := rfl
@[simp] theorem State.modRefresh_banks : (s.modRefresh f).banks = s.banks := rfl
@[simp] theorem State.modRefresh_table : (s.modRefresh f).table = s.table := rfl
@[simp] theorem State.modRefresh_config : (s.modRefresh f).config = s.config := rfl
@[simp] theorem State.modRefresh_refresh : (s.modRefresh f).refresh = f s.refresh := rfl
@[simp] theorem State.modRefresh_teardown : (s.modRefresh f).teardown = s.teardown := rfl
@[simp] theorem State.modRefresh_resetHigh : (s.modRefresh f).resetHigh = s.resetHigh := rfl
@[simp] theorem State.modRefresh_now : (s.modRefresh f).now = s.now := rfl
@[simp] theorem State.modRefresh_choices : (s.modRefresh f).choices = s.choices := rfl
@[simp] theorem State.modRefresh_pending : (s.modRefresh f).pending = s.pending := rfl

end

/-! ### modConfig -/

section
variable (s : State) (f : ConfigCtl → ConfigCtl)

@[simp] theorem State.modConfig_cells : (s.modConfig f).cells = s.cells := rfl
@[simp] theorem State.modConfig_stamps : (s.modConfig f).stamps = s.stamps := rfl
@[simp] theorem State.modConfig_park : (s.modConfig f).park = s.park := rfl
@[simp] theorem State.modConfig_watches : (s.modConfig f).watches = s.watches := rfl
@[simp] theorem State.modConfig_events : (s.modConfig f).events = s.events := rfl
@[simp] theorem State.modConfig_hpus : (s.modConfig f).hpus = s.hpus := rfl
@[simp] theorem State.modConfig_banks : (s.modConfig f).banks = s.banks := rfl
@[simp] theorem State.modConfig_table : (s.modConfig f).table = s.table := rfl
@[simp] theorem State.modConfig_config : (s.modConfig f).config = f s.config := rfl
@[simp] theorem State.modConfig_refresh : (s.modConfig f).refresh = s.refresh := rfl
@[simp] theorem State.modConfig_teardown : (s.modConfig f).teardown = s.teardown := rfl
@[simp] theorem State.modConfig_resetHigh : (s.modConfig f).resetHigh = s.resetHigh := rfl
@[simp] theorem State.modConfig_now : (s.modConfig f).now = s.now := rfl
@[simp] theorem State.modConfig_choices : (s.modConfig f).choices = s.choices := rfl
@[simp] theorem State.modConfig_pending : (s.modConfig f).pending = s.pending := rfl

end

/-! ### modTeardown -/

section
variable (s : State) (p : Port) (f : TeardownRec → TeardownRec)

@[simp] theorem State.modTeardown_cells : (s.modTeardown p f).cells = s.cells := rfl
@[simp] theorem State.modTeardown_stamps : (s.modTeardown p f).stamps = s.stamps := rfl
@[simp] theorem State.modTeardown_park : (s.modTeardown p f).park = s.park := rfl
@[simp] theorem State.modTeardown_watches : (s.modTeardown p f).watches = s.watches := rfl
@[simp] theorem State.modTeardown_events : (s.modTeardown p f).events = s.events := rfl
@[simp] theorem State.modTeardown_hpus : (s.modTeardown p f).hpus = s.hpus := rfl
@[simp] theorem State.modTeardown_banks : (s.modTeardown p f).banks = s.banks := rfl
@[simp] theorem State.modTeardown_table : (s.modTeardown p f).table = s.table := rfl
@[simp] theorem State.modTeardown_config : (s.modTeardown p f).config = s.config := rfl
@[simp] theorem State.modTeardown_refresh : (s.modTeardown p f).refresh = s.refresh := rfl
@[simp] theorem State.modTeardown_teardown : (s.modTeardown p f).teardown = s.teardown.set p ((s.teardown.get p).map f) := rfl
@[simp] theorem State.modTeardown_resetHigh : (s.modTeardown p f).resetHigh = s.resetHigh := rfl
@[simp] theorem State.modTeardown_now : (s.modTeardown p f).now = s.now := rfl
@[simp] theorem State.modTeardown_choices : (s.modTeardown p f).choices = s.choices := rfl
@[simp] theorem State.modTeardown_pending : (s.modTeardown p f).pending = s.pending := rfl

end

/-! ### One port or one bank after a change -/

@[simp] theorem State.hpu_modHpu_same (s : State) (p : Port) (f : Hpu → Hpu) : (s.modHpu p f).hpu p = f (s.hpu p) := by
  simp [State.hpu]

@[simp] theorem State.hpu_modHpu_other (s : State) {p q : Port} (f : Hpu → Hpu) (h : q ≠ p) :
    (s.modHpu p f).hpu q = s.hpu q := by
  simp [State.hpu, h]

@[simp] theorem State.bank_modBank_same (s : State) (b : Bank) (f : BankCtl → BankCtl) :
    (s.modBank b f).bank b = f (s.bank b) := by
  simp [State.bank]

@[simp] theorem State.bank_modBank_other (s : State) {b d : Bank} (f : BankCtl → BankCtl) (h : d ≠ b) :
    (s.modBank b f).bank d = s.bank d := by
  simp [State.bank, h]

@[simp] theorem State.eventPort_modEvents_same (s : State) (p : Port) (f : EventPort → EventPort) :
    (s.modEvents p f).eventPort p = f (s.eventPort p) := by
  simp [State.eventPort]

@[simp] theorem State.eventPort_modEvents_other (s : State) {p q : Port} (f : EventPort → EventPort) (h : q ≠ p) :
    (s.modEvents p f).eventPort q = s.eventPort q := by
  simp [State.eventPort, h]

theorem State.modHpu_id (s : State) (p : Port) : s.modHpu p (fun h => h) = s := by simp [State.modHpu]

theorem State.modHpu_modHpu (s : State) (p : Port) (f g : Hpu → Hpu) :
    (s.modHpu p f).modHpu p g = s.modHpu p (fun h => g (f h)) := by
  simp [State.modHpu]

end Sys2Proof.Machine
end

