-- ==== Sys2Proof/Laws/Admission.lean ====
section
/-!
SUPPORT. What the reception of a request can do, said once: it is discarded for its length or for its tag, refused by the
first check that fails, or handed on; and what a response handed to a port changes.
-/
namespace Sys2Proof.Machine

/-! ### Valid frames and responses -/

@[simp] theorem Hpu.validFrame_link (h : Hpu) : h.validFrame.link = .alive := by
  cases h with
  | mk link port recv send tags adm sl hj ls => cases link <;> rfl

@[simp] theorem Hpu.validFrame_tags (h : Hpu) : h.validFrame.tags = h.tags := by
  cases h with
  | mk link port recv send tags adm sl hj ls => cases link <;> rfl

@[simp] theorem Hpu.validFrame_sendList (h : Hpu) : h.validFrame.sendList = h.sendList := by
  cases h with
  | mk link port recv send tags adm sl hj ls => cases link <;> rfl

@[simp] theorem Hpu.validFrame_heldJoin (h : Hpu) : h.validFrame.heldJoin = h.heldJoin := by
  cases h with
  | mk link port recv send tags adm sl hj ls => cases link <;> rfl

theorem Hpu.validFrame_port (h : Hpu) :
    h.validFrame.port = if h.link = .dead ∧ h.port = .down then .linked else h.port := by
  cases h with
  | mk link port recv send tags adm sl hj ls => cases link <;> cases port <;> rfl

theorem Hpu.validFrame_up {h : Hpu} (hu : h.port = .up) : h.validFrame.port = .up := by
  simp [Hpu.validFrame_port, hu]

theorem State.reply_alive {p : Port} (kind : Byte) (t : Tag) (body : RespBody) {s : State}
    (h : (s.hpu p).link = .alive) :
    s.reply p kind t body = s.handed p [{ kind := kind, tag := t, body := body }] := by
  simp only [State.hpu] at h
  simp [State.reply, State.handed, State.modHpu, State.hpu, h]

theorem State.reply_dead {p : Port} (kind : Byte) (t : Tag) (body : RespBody) {s : State}
    (h : (s.hpu p).link = .dead) : s.reply p kind t body = s := by
  simp only [State.hpu] at h
  simp [State.reply, State.modHpu, h]

/-- A response reaches one send list and nothing else. -/
theorem State.reply_frame (p : Port) (kind : Byte) (t : Tag) (body : RespBody) (s : State) :
    s.reply p kind t body = { s with hpus := (s.reply p kind t body).hpus } := rfl

@[simp] theorem State.hpu_handed_same (p : Port) (rs : List Response) (s : State) :
    (s.handed p rs).hpu p = { s.hpu p with sendList := (s.hpu p).sendList ++ rs } := by
  simp [State.handed, State.hpu]

@[simp] theorem State.hpu_handed_other {p q : Port} (rs : List Response) (s : State) (h : q ≠ p) :
    (s.handed p rs).hpu q = s.hpu q := by
  simp [State.handed, State.hpu, h]

/-! ### Admission (R150, R151) -/

@[simp] theorem State.hpu_admitted_same (v : Bool) (p : Port) (f : Frame) (s : State) :
    (s.admitted v p f).hpu p =
      { (s.hpu p).validFrame with tags := (s.hpu p).tags.set f.tag .outstanding, admission := none } := by
  simp [State.admitted, State.hpu]

@[simp] theorem State.hpu_admitted_other {p q : Port} (v : Bool) (f : Frame) (s : State) (h : q ≠ p) :
    (s.admitted v p f).hpu q = s.hpu q := by
  simp [State.admitted, State.hpu, h]

/-- The admission of a staged frame with a FREE tag: the state `admitted`, refused or handed on. -/
theorem State.admit_free {p : Port} {keep : Bool} {code : Byte} {f : Frame} {s : State} (refusal : Option Status)
    (kind : Byte) (serve : State → State) (h : s.tagState p f.tag = .free) :
    ((s.receiveValid p).stage p code f).admitStaged p keep refusal kind serve =
      match refusal with
      | some st => (s.admitted keep p f).handed p [{ kind := kind, tag := f.tag, body := .refused st }]
      | none => serve (s.admitted keep p f) := by
  have hs : ((s.receiveValid p).stage p code f).hpu p = { (s.hpu p).validFrame with admission := some (code, f) } := by
    simp [State.stage, State.receiveValid]
  have hpass : (((s.receiveValid p).stage p code f).passTag p f.tag keep).unstage p = s.admitted keep p f := by
    cases keep <;>
      simp [State.passTag, State.unstage, State.stage, State.receiveValid, State.setTag, State.modHpu, State.modRefresh,
        State.admitted, State.hpu]
  have htag : ((s.receiveValid p).stage p code f).tagState p f.tag = .free := by
    rw [State.tagState, hs]
    simpa [State.tagState] using h
  unfold State.admitStaged
  rw [hs]
  simp only [htag, hpass, reduceCtorEq, if_false]
  cases refusal with
  | none => rfl
  | some st => exact State.reply_alive _ _ _ (by simp)

/-- The admission of a staged frame whose tag is OUTSTANDING: discarded with PORT_FAULT TAG_IN_USE (R152). -/
theorem State.admit_inUse {p : Port} {keep : Bool} {code : Byte} {f : Frame} {s : State} (refusal : Option Status)
    (kind : Byte) (serve : State → State) (h : s.tagState p f.tag = .outstanding) :
    ((s.receiveValid p).stage p code f).admitStaged p keep refusal kind serve =
      State.raise p (.portFault .tagInUse (some f.tag) (some code))
        { s with hpus := s.hpus.set p { (s.hpu p).validFrame with admission := none } } := by
  have hs : ((s.receiveValid p).stage p code f).hpu p = { (s.hpu p).validFrame with admission := some (code, f) } := by
    simp [State.stage, State.receiveValid]
  have htag : ((s.receiveValid p).stage p code f).tagState p f.tag = .outstanding := by
    rw [State.tagState, hs]
    simpa [State.tagState] using h
  have hun : ((s.receiveValid p).stage p code f).unstage p =
      { s with hpus := s.hpus.set p { (s.hpu p).validFrame with admission := none } } := by
    simp [State.unstage, State.stage, State.receiveValid, State.modHpu, State.hpu]
  unfold State.admitStaged
  rw [hs]
  simp only [htag, hun, if_true]
  rfl

/-- All that the reception of a request frame of a known kind can do: FRAME_LENGTH, TAG_IN_USE, a refusal, or the
request handed on. -/
theorem State.receiveRequest_cases (k : Kind) (p : Port) (f : Frame) (serve : State → State) (s : State) :
    (lengthOk k f = false ∧ s.receiveRequest k p f serve =
        State.raise p (.portFault .frameLength (some f.tag) (some k.code)) (s.receiveValid p)) ∨
    (lengthOk k f = true ∧ s.tagState p f.tag = .outstanding ∧ s.receiveRequest k p f serve =
        State.raise p (.portFault .tagInUse (some f.tag) (some k.code))
          { s with hpus := s.hpus.set p { (s.hpu p).validFrame with admission := none } }) ∨
    (∃ st, lengthOk k f = true ∧ s.tagState p f.tag = .free ∧ (s.receiveValid p).refusal k p f = some st ∧
        s.receiveRequest k p f serve = s.answered k p f (.refused st)) ∨
    (lengthOk k f = true ∧ s.tagState p f.tag = .free ∧ (s.receiveValid p).refusal k p f = none ∧
        s.receiveRequest k p f serve = serve (s.admitted (keepsVote k) p f)) := by
  unfold State.receiveRequest
  cases hl : lengthOk k f with
  | false => exact Or.inl ⟨rfl, by simp; rfl⟩
  | true =>
    refine Or.inr ?_
    cases ht : s.tagState p f.tag with
    | outstanding => exact Or.inl ⟨rfl, rfl, by simpa using State.admit_inUse _ _ _ ht⟩
    | free =>
      refine Or.inr ?_
      cases hr : (s.receiveValid p).refusal k p f with
      | some st =>
        exact Or.inl ⟨st, rfl, rfl, rfl, by simp only [if_true]; rw [hr, State.admit_free _ _ _ ht]; rfl⟩
      | none => exact Or.inr ⟨rfl, rfl, rfl, by simp only [if_true]; rw [hr, State.admit_free _ _ _ ht]⟩

/-- A ready request that no check refuses is handed on. -/
theorem State.receiveRequest_served {k : Kind} {p : Port} {f : Frame} {serve : State → State} {s : State}
    (hl : lengthOk k f = true) (ht : s.tagState p f.tag = .free) (hr : (s.receiveValid p).refusal k p f = none) :
    s.receiveRequest k p f serve = serve (s.admitted (keepsVote k) p f) := by
  unfold State.receiveRequest
  simp only [hl, if_true]
  rw [hr, State.admit_free _ _ _ ht]

/-- A ready request that a check refuses is answered with that status and has no other effect than an admission's. -/
theorem State.receiveRequest_refused {k : Kind} {p : Port} {f : Frame} {serve : State → State} {s : State} {st : Status}
    (hl : lengthOk k f = true) (ht : s.tagState p f.tag = .free) (hr : (s.receiveValid p).refusal k p f = some st) :
    s.receiveRequest k p f serve = s.answered k p f (.refused st) := by
  unfold State.receiveRequest
  simp only [hl, if_true]
  rw [hr, State.admit_free _ _ _ ht]
  rfl

/-- What checks 3 to 7 read of the part is not changed by the frame itself, but for a DOWN port going LINKED. -/
theorem State.refusal_receiveValid (k : Kind) (p : Port) (f : Frame) (s : State) :
    (s.receiveValid p).refusal k p f =
      (portCheck k (s.hpu p).validFrame.port <|> powerCheck k s.refresh.power <|> configCheck k s.config.state <|>
        rightsCheck k p f s.table <|> fieldCheck k f) := by
  simp [State.refusal, State.receiveValid]

/-- A request of a port that is UP, in ACTIVE, is refused by the configuration, rights and field checks alone. -/
theorem Accepted.refusal {k : Kind} {p : Port} {f : Frame} {s : State} (h : Accepted k p f s) :
    (s.receiveValid p).refusal k p f =
      (configCheck k s.config.state <|> rightsCheck k p f s.table <|> fieldCheck k f) := by
  rw [State.refusal_receiveValid, Hpu.validFrame_up h.up, h.active]
  cases k <;> rfl

end Sys2Proof.Machine
end

