-- ==== Sys2Proof/Laws/Banks.lean ====
section
/-!
SUPPORT. What the pick, the joining of a bank queue and the end of an access can do, case by case; and that nothing falls
together with an access in a calm state.
-/
namespace Sys2Proof.Machine

/-! ### The pick (R87) -/

theorem splitHit_none {row : Nat} {l : List Access} (h : ∀ a ∈ l, a.row ≠ row) : splitHit row l = none := by
  induction l with
  | nil => rfl
  | cons a rest ih =>
    have hr := ih (fun x hx => h x (List.mem_cons_of_mem _ hx))
    simp [splitHit, h a List.mem_cons_self, hr]

theorem splitHit_hit {row : Nat} {older : List Access} (hit : Access) (younger : List Access)
    (h : ∀ a ∈ older, a.row ≠ row) (hr : hit.row = row) :
    splitHit row (older ++ hit :: younger) =
      some (hit, older.map (fun a => { a with bypass := a.bypass + 1 }) ++ younger) := by
  induction older with
  | nil => simp [splitHit, hr]
  | cons a rest ih =>
    have := ih (fun x hx => h x (List.mem_cons_of_mem _ hx))
    simp [splitHit, h a List.mem_cons_self, this]

@[simp] theorem chooseAccess_nil (st : BankState) : chooseAccess st [] = none := rfl

theorem BankCtl.pick_busy {k : BankCtl} (h : k.free = false) : k.pick = k := by simp [BankCtl.pick, h]

theorem BankCtl.pick_empty {k : BankCtl} (h : k.queue = []) : k.pick = k := by
  cases k
  simp_all [BankCtl.pick]

theorem State.pickBank_held (b : Bank) {s : State} (h : s.refresh.hold = true) : s.pickBank b = s := by
  simp [State.pickBank, h]

theorem State.pickBank_lifted (b : Bank) {s : State} (h : s.refresh.hold = false) :
    s.pickBank b = s.modBank b BankCtl.pick := by
  simp [State.pickBank, h]

/-- A pick changes its bank alone. -/
theorem State.pickBank_frame (b : Bank) (s : State) :
    s.pickBank b = { s with banks := s.banks.set b ((s.pickBank b).bank b) } := by
  unfold State.pickBank
  split
  · simp [State.bank]
  · simp [State.modBank, State.bank]

/-- A bank's queue after an access has joined its end. -/
theorem State.enqueue_waits {a : Access} {s : State}
    (h : s.refresh.hold = true ∨ (s.bank (bankOf a.cell)).free = false) :
    s.enqueue a =
      s.modBank (bankOf a.cell) (fun k => { k with queue := k.queue ++ [{ a with bypass := 0 }] }) := by
  obtain h | h := h
  · exact State.pickBank_held _ h
  · cases hh : s.refresh.hold with
    | true => exact State.pickBank_held _ hh
    | false =>
      have waits : BankCtl.pick
          { s.banks.get (bankOf a.cell) with
            queue := (s.banks.get (bankOf a.cell)).queue ++ [{ a with bypass := 0 }] } =
          { s.banks.get (bankOf a.cell) with
            queue := (s.banks.get (bankOf a.cell)).queue ++ [{ a with bypass := 0 }] } :=
        BankCtl.pick_busy h
      have lifted : (s.modBank (bankOf a.cell) (fun k =>
          { k with queue := k.queue ++ [{ a with bypass := 0 }] })).refresh.hold = false := hh
      rw [State.enqueue, State.pickBank_lifted _ lifted]
      simp [State.modBank, waits]

/-- An access joining a queue changes its bank alone. -/
theorem State.enqueue_frame (a : Access) (s : State) :
    s.enqueue a = { s with banks := s.banks.set (bankOf a.cell) ((s.enqueue a).bank (bankOf a.cell)) } := by
  unfold State.enqueue
  rw [State.pickBank_frame]
  simp [State.modBank, State.bank]

/-! ### The end of an access (R90, R91) -/

/-- The end of an access changes its bank alone. -/
theorem State.endAtBank_frame (b : Bank) (s : State) :
    s.endAtBank b = { s with banks := s.banks.set b ((s.endAtBank b).bank b) } := by
  unfold State.endAtBank
  rw [State.pickBank_frame]
  simp [State.modBank, State.bank]

theorem State.noteEnded_idle (b : Bank) {s : State} (h : s.teardown = Four.all none) : s.noteEnded b = s := by
  obtain ⟨cells, stamps, park, watches, events, hpus, banks, table, config, refresh, teardown, r, n, c, q⟩ := s
  subst h
  rfl

theorem State.opportunityDue_noDebt {s : State} (h : s.refresh.debt = 0) : s.opportunityDue = false := by
  simp [State.opportunityDue, h]

theorem State.walkDue_idle {s : State} (h : s.teardown = Four.all none) (p : Port) : s.walkDue p = false := by
  simp [State.walkDue, h]

theorem State.configDue_calm {s : State}
    (h : s.config.state = .setup ∧ s.commitQuorum = false ∨ s.config.state = .run ∧ s.reopenQuorum = false) :
    s.configDue = false := by
  unfold State.configDue
  obtain ⟨h, hq⟩ | ⟨h, hq⟩ := h <;> simp [h, hq]

/-- With no walk, decision or refresh due, nothing falls together with a happening. -/
theorem State.settle_quiet {s : State} (hw : ∀ p, s.walkDue p = false) (hc : s.configDue = false)
    (ho : s.opportunityDue = false) : s.settle = s := by
  have hn : allFour.any s.walkDue = false := by simp [hw]
  have hd : s.dueActs = [] := by simp [State.dueActs, hw, hc, ho]
  rw [State.settle, hn, hd]
  rfl

/-- Nothing of another block is waiting on an access or a departure: no port is in CLEARING, no refresh is owed, and the
configuration stands in SETUP or RUN with no quorum met. -/
structure Calm (s : State) : Prop where
  noTeardown : s.teardown = Four.all none
  noDebt : s.refresh.debt = 0
  steady : s.config.state = .setup ∧ s.commitQuorum = false ∨ s.config.state = .run ∧ s.reopenQuorum = false

/-- In a calm state an access ends at its bank alone. -/
theorem State.finishAccess_calm (b : Bank) {s : State} (h : Calm s) : s.finishAccess b = s.endAtBank b := by
  have hf := State.endAtBank_frame b s
  have ht : (s.endAtBank b).teardown = Four.all none := by rw [hf]; exact h.noTeardown
  rw [State.finishAccess, State.noteEnded_idle _ ht]
  apply State.settle_quiet
  · exact fun p => State.walkDue_idle ht p
  · apply State.configDue_calm
    rw [hf]
    exact h.steady
  · apply State.opportunityDue_noDebt
    rw [hf]
    exact h.noDebt

end Sys2Proof.Machine
end

