-- ==== Sys2Proof/Laws/Cells.lean ====
section
/-!
SUPPORT. The laws of the Cell Store and of the stamp lists: a read after a write, that every operation keeps the
canonical form, and what a change of a cell record does to the stamp lists.
-/
namespace Sys2Proof.Machine

/-! ### The listed cells -/

theorem findCell_insertCell_same (c : CellIx) (r : CellRec) (l : List (CellIx × CellRec)) :
    findCell (insertCell c r l) c = some r := by
  induction l with
  | nil => simp [insertCell, findCell]
  | cons x rest ih =>
    by_cases h1 : c < x.1
    · simp [insertCell, findCell, h1]
    · by_cases h2 : c = x.1
      · simp [insertCell, findCell, h2]
      · have h3 : ¬x.1 = c := fun h => h2 h.symm
        simp [insertCell, findCell, h1, h2, h3, ih]

theorem findCell_insertCell_other {c d : CellIx} (r : CellRec) (l : List (CellIx × CellRec)) (h : d ≠ c) :
    findCell (insertCell c r l) d = findCell l d := by
  have hc : ¬c = d := fun e => h e.symm
  induction l with
  | nil => simp [insertCell, findCell, hc]
  | cons x rest ih =>
    by_cases h1 : c < x.1
    · simp [insertCell, findCell, h1, hc]
    · by_cases h2 : c = x.1
      · subst h2
        simp [insertCell, findCell, hc]
      · simp [insertCell, findCell, h1, h2, ih]

theorem findCell_filter {q : CellIx → Bool} (l : List (CellIx × CellRec)) (c : CellIx) :
    findCell (l.filter (fun x => q x.1)) c = if q c then findCell l c else none := by
  induction l with
  | nil => simp [findCell]
  | cons x rest ih =>
    by_cases h : x.1 = c
    · subst h
      by_cases hq : q x.1 = true <;> simp [findCell, hq, ih]
    · by_cases hq : q x.1 = true <;> simp [findCell, hq, h, ih]

theorem findCell_mem {l : List (CellIx × CellRec)} {c : CellIx} {r : CellRec} (h : findCell l c = some r) :
    (c, r) ∈ l := by
  induction l with
  | nil => simp [findCell] at h
  | cons x rest ih =>
    by_cases hx : x.1 = c
    · simp only [findCell, if_pos hx] at h
      have : x = (c, r) := by rw [← hx, ← Option.some.inj h]
      simp [this]
    · simp only [findCell, if_neg hx] at h
      exact List.mem_cons_of_mem _ (ih h)

/-! ### Reading and writing (R1) -/

@[simp] theorem CellStore.write_background (m : CellStore) (c : CellIx) (r : CellRec) :
    (m.write c r).background = m.background := by
  unfold CellStore.write
  split <;> rfl

@[simp] theorem CellStore.write_blank (m : CellStore) (c d : CellIx) (r : CellRec) :
    (m.write c r).blank d = m.blank d := by
  simp [CellStore.blank]

theorem CellStore.read_write_same (m : CellStore) (c : CellIx) (r : CellRec) : (m.write c r).read c = r := by
  unfold CellStore.write
  split
  · rename_i h
    have hb : CellStore.blank { m with listed := m.listed.filter (fun x => x.1 != c) } c = r := by rw [h]; rfl
    rw [CellStore.read, hb]
    simp [findCell_filter (q := fun x => x != c)]
  · simp [CellStore.read, findCell_insertCell_same]

theorem CellStore.read_write_other (m : CellStore) {c d : CellIx} (r : CellRec) (h : d ≠ c) :
    (m.write c r).read d = m.read d := by
  unfold CellStore.write
  split
  · have hd : (d != c) = true := by simpa using h
    simp [CellStore.read, findCell_filter (q := fun x => x != c), hd, CellStore.blank]
  · simp [CellStore.read, findCell_insertCell_other r m.listed h, CellStore.blank]

theorem CellStore.read_write (m : CellStore) (c d : CellIx) (r : CellRec) :
    (m.write c r).read d = if d = c then r else m.read d := by
  by_cases h : d = c
  · subst h; simp [CellStore.read_write_same]
  · simp [h, CellStore.read_write_other m r h]

/-! ### The canonical form -/

/-- The canonical form as propositions: indices strictly rising, each below 65,536, none holding its bank's blank. -/
theorem risingKeys_iff (l : List (CellIx × CellRec)) : risingKeys l = true ↔ l.Pairwise (fun x y => x.1 < y.1) := by
  induction l with
  | nil => simp [risingKeys]
  | cons x rest ih =>
    cases rest with
    | nil => simp [risingKeys]
    | cons y rest' =>
      simp only [risingKeys, Bool.and_eq_true, decide_eq_true_eq, ih, List.pairwise_cons, List.mem_cons]
      constructor
      · rintro ⟨hxy, hy, hr⟩
        refine ⟨?_, hy, hr⟩
        rintro a (rfl | ha)
        · exact hxy
        · exact lt_trans hxy (hy a ha)
      · rintro ⟨hx, hy, hr⟩
        exact ⟨hx y (Or.inl rfl), hy, hr⟩

theorem CellStore.wf_iff (m : CellStore) :
    m.wf = true ↔ m.listed.Pairwise (fun x y => x.1 < y.1) ∧
      ∀ x ∈ m.listed, x.1 < Config.cellCount ∧ x.2 ≠ m.blank x.1 := by
  simp [CellStore.wf, risingKeys_iff, List.all_eq_true]

theorem mem_insertCell {c : CellIx} {r : CellRec} {l : List (CellIx × CellRec)} {y : CellIx × CellRec}
    (h : y ∈ insertCell c r l) : y = (c, r) ∨ y ∈ l := by
  induction l with
  | nil => simpa [insertCell] using h
  | cons x rest ih =>
    simp only [insertCell] at h
    split at h
    · simpa using h
    · split at h
      · rcases List.mem_cons.1 h with h | h
        · exact Or.inl h
        · exact Or.inr (List.mem_cons_of_mem _ h)
      · rcases List.mem_cons.1 h with h | h
        · exact Or.inr (by simp [h])
        · exact (ih h).imp id (List.mem_cons_of_mem _)

theorem insertCell_rising (c : CellIx) (r : CellRec) {l : List (CellIx × CellRec)}
    (h : l.Pairwise (fun x y => x.1 < y.1)) : (insertCell c r l).Pairwise (fun x y => x.1 < y.1) := by
  induction l with
  | nil => simp [insertCell]
  | cons x rest ih =>
    obtain ⟨hx, hr⟩ := List.pairwise_cons.1 h
    simp only [insertCell]
    split
    · rename_i hlt
      refine List.pairwise_cons.2 ⟨?_, h⟩
      intro y hy
      rcases List.mem_cons.1 hy with rfl | hy
      · exact hlt
      · exact lt_trans hlt (hx y hy)
    · split
      · rename_i heq
        exact List.pairwise_cons.2 ⟨fun y hy => by simpa [heq] using hx y hy, hr⟩
      · rename_i hlt hne
        refine List.pairwise_cons.2 ⟨?_, ih hr⟩
        intro y hy
        rcases mem_insertCell hy with rfl | hy
        · exact lt_of_le_of_ne (not_lt.1 hlt) (fun e => hne e.symm)
        · exact hx y hy

/-- Every write to a cell of the part keeps the canonical form. -/
theorem CellStore.write_wf {m : CellStore} {c : CellIx} (r : CellRec) (hm : m.wf = true) (hc : c < Config.cellCount) :
    (m.write c r).wf = true := by
  obtain ⟨hr, hl⟩ := (CellStore.wf_iff m).1 hm
  rw [CellStore.wf_iff]
  unfold CellStore.write
  split
  · exact ⟨hr.filter _, fun x hx => hl x (List.mem_of_mem_filter hx)⟩
  · rename_i hne
    refine ⟨insertCell_rising c r hr, fun x hx => ?_⟩
    rcases mem_insertCell hx with rfl | hx
    · exact ⟨hc, hne⟩
    · exact hl x hx

/-! ### The loss of banks at retention entry (R112) -/

theorem loseOutside_background_get (m : CellStore) (mask : BitVec 4) (b : Bank) :
    (m.loseOutside mask).background.get b = if mask.getLsbD b.val then m.background.get b else .lost := by
  fin_cases b <;> rfl

theorem CellStore.read_loseOutside (m : CellStore) (mask : BitVec 4) (c : CellIx) :
    (m.loseOutside mask).read c = if mask.getLsbD (bankOf c).val then m.read c else .lost := by
  have hf := findCell_filter (q := fun x => mask.getLsbD (bankOf x).val) m.listed c
  have hb : (m.loseOutside mask).blank c =
      if mask.getLsbD (bankOf c).val then m.blank c else CellRec.lost := by
    simp only [CellStore.blank, loseOutside_background_get]
    split <;> rfl
  simp only [CellStore.read, hb]
  rw [show (m.loseOutside mask).listed = m.listed.filter (fun x => mask.getLsbD (bankOf x.1).val) from rfl, hf]
  split <;> simp

/-- The loss of banks keeps the canonical form. -/
theorem CellStore.loseOutside_wf {m : CellStore} (mask : BitVec 4) (hm : m.wf = true) :
    (m.loseOutside mask).wf = true := by
  obtain ⟨hr, hl⟩ := (CellStore.wf_iff m).1 hm
  rw [CellStore.wf_iff]
  refine ⟨hr.filter _, fun x hx => ?_⟩
  obtain ⟨hx, hq⟩ := List.mem_filter.1 hx
  refine ⟨(hl x hx).1, ?_⟩
  have : (m.loseOutside mask).blank x.1 = m.blank x.1 := by
    simp [CellStore.blank, loseOutside_background_get, hq]
  rw [this]
  exact (hl x hx).2

/-- The Cell Store after device reset is in its canonical form. -/
theorem reset_cells_wf : State.reset.cells.wf = true := by decide

/-- Every cell reads VOID after device reset (R16). -/
theorem reset_readCell (c : CellIx) : State.reset.readCell c = .void := by
  simp [State.readCell, State.reset, CellStore.read, findCell, CellStore.blank, Blank.toRec]

/-! ### Cell records and stamp lists (R10 to R12) -/

@[simp] theorem State.moveStamp_cells (c : CellIx) (o o' : Option Port) (s : State) :
    (s.moveStamp c o o').cells = s.cells := by
  unfold State.moveStamp
  split
  · rfl
  · cases o <;> cases o' <;> rfl

@[simp] theorem State.putCell_cells (c : CellIx) (r : CellRec) (s : State) :
    (s.putCell c r).cells = s.cells.write c r := by
  simp [State.putCell]

theorem State.putCell_read_same (c : CellIx) (r : CellRec) (s : State) : (s.putCell c r).readCell c = r := by
  simp [State.readCell, CellStore.read_write_same]

theorem State.putCell_read_other {c d : CellIx} (r : CellRec) (s : State) (h : d ≠ c) :
    (s.putCell c r).readCell d = s.readCell d := by
  simp [State.readCell, CellStore.read_write_other _ _ h]

/-- A write of a cell record changes the Cell Store, the stamp lists and the cells a walk has passed, and nothing
else. -/
theorem State.putCell_frame (c : CellIx) (r : CellRec) (s : State) :
    s.putCell c r =
      { s with cells := s.cells.write c r, stamps := (s.putCell c r).stamps, teardown := (s.putCell c r).teardown } := by
  unfold State.putCell State.moveStamp
  split
  · rfl
  · cases (s.readCell c).owner <;> cases r.owner <;> rfl

/-- The stamp list of a port after a write of a cell record (R11, R12): unchanged when the owner stays; otherwise the
old owner's list without the cell, the new owner's with the cell at its end. -/
theorem State.putCell_stamps (c : CellIx) (r : CellRec) (s : State) (p : Port) :
    (s.putCell c r).stamps.get p =
      if (s.readCell c).owner = r.owner then s.stamps.get p
      else if r.owner = some p then s.stamps.get p ++ [c]
      else if (s.readCell c).owner = some p then (s.stamps.get p).filter (fun x => x != c)
      else s.stamps.get p := by
  unfold State.putCell State.moveStamp
  split
  · rfl
  · rename_i hne
    cases ho : (s.readCell c).owner with
    | none =>
      cases hn : r.owner with
      | none => simp [ho, hn] at hne
      | some q =>
        by_cases hq : q = p
        · subst hq; simp [State.enlist]
        · have : ¬p = q := fun h => hq h.symm
          simp [State.enlist, hq, this]
    | some o =>
      cases hn : r.owner with
      | none =>
        by_cases hq : o = p
        · subst hq; simp [State.unlist]
        · have : ¬p = o := fun h => hq h.symm
          simp [State.unlist, hq, this]
      | some q =>
        have hoq : ¬o = q := by
          intro h
          exact hne (by rw [ho, hn, h])
        by_cases hq : q = p
        · subst hq
          have : ¬q = o := fun h => hoq h.symm
          simp [State.enlist, State.unlist, this]
        · have hp : ¬p = q := fun h => hq h.symm
          by_cases h2 : o = p
          · subst h2; simp [State.enlist, State.unlist, hq, hoq]
          · have : ¬p = o := fun h => h2 h.symm
            simp [State.enlist, State.unlist, hq, hp, h2, this]

end Sys2Proof.Machine
end

