-- ==== Sys2Proof/Laws/Control.lean ====
section
/-!
SUPPORT. What a quorum is, and the tests of the part's own decisions when they do not stand.
-/
namespace Sys2Proof.Machine

theorem State.mem_upPorts {s : State} {p : Port} : p ∈ s.upPorts ↔ (s.hpu p).port = .up := by
  simp [State.upPorts, State.isUp]

/-- A quorum: at least one port is UP, and every UP port meets the test. -/
theorem State.quorum_iff {s : State} {test : Port → Bool} :
    s.quorum test = true ↔ (∃ p, (s.hpu p).port = .up) ∧ ∀ p, (s.hpu p).port = .up → test p = true := by
  rw [State.quorum, Bool.and_eq_true, List.all_eq_true]
  constructor
  · rintro ⟨h, hall⟩
    refine ⟨?_, fun p hp => hall p (State.mem_upPorts.2 hp)⟩
    cases hu : s.upPorts with
    | nil => simp [hu] at h
    | cons p rest => exact ⟨p, State.mem_upPorts.1 (by rw [hu]; exact List.mem_cons_self)⟩
  · rintro ⟨⟨p, hp⟩, hall⟩
    refine ⟨?_, fun q hq => hall q (State.mem_upPorts.1 hq)⟩
    cases hu : s.upPorts with
    | nil => exact absurd (State.mem_upPorts.2 hp) (by simp [hu])
    | cons q rest => rfl

theorem State.testRun_notDue {s : State} (h : s.runDue = false) : s.testRun = s := by simp [State.testRun, h]

theorem State.testDrain_notDue {s : State} (h : s.drainDue = false) : s.testDrain = s := by simp [State.testDrain, h]

theorem State.testRetention_notDue {s : State} (h : s.retentionDue = false) : s.testRetention = s := by
  simp [State.testRetention, h]

theorem State.testConfig_notDue {s : State} (h : s.configDue = false) : s.testConfig = s := by
  unfold State.configDue at h
  unfold State.testConfig
  split <;> simp_all [State.testRun, State.testDrain, State.testQuorums]

/-- Outside the quorums' states, and with no quorum, their test does nothing (R141, R144). -/
theorem State.testQuorums_notDue {s : State} (c : s.config.state = .setup → s.commitQuorum = false)
    (r : s.config.state = .run → s.reopenQuorum = false) : s.testQuorums = s := by
  unfold State.testQuorums
  split <;> simp_all

/-- The retention decision stands in RUN alone (R110). -/
theorem State.retentionDue_outsideRun {s : State} (h : s.config.state ≠ .run) : s.retentionDue = false := by
  simp [State.retentionDue, h]

theorem State.noHostAccess_iff {s : State} :
    s.noHostAccess = true ↔ ∀ b, ∀ a ∈ (s.bank b).queue ++ (s.bank b).current.toList, a.isHost = false := by
  rw [State.noHostAccess, Four.all_toList]
  refine forall_congr' (fun b => ?_)
  rw [BankCtl.noHostAccess, Bool.and_eq_true, List.all_eq_true, State.bank]
  cases (s.banks.get b).current <;> simp [or_imp, forall_and]

end Sys2Proof.Machine
end

