-- ==== Sys2Proof/Laws/Events.lean ====
section
/-!
SUPPORT. What an event handed to one port, to the others, or a response to a list of held requests can change: the event
queues, or the send lists, and no other block.
-/
namespace Sys2Proof.Machine

/-! ### Events -/

theorem State.raise_up {p : Port} (e : Event) {s : State} (h : (s.hpu p).port = .up) :
    s.raise p e = { s with events := s.events.set p ((s.eventPort p).take e) } := by
  simp [State.raise, State.isUp, h, State.modEvents, State.eventPort]

theorem State.raise_absent {p : Port} (e : Event) {s : State} (h : (s.hpu p).port ≠ .up) : s.raise p e = s := by
  simp [State.raise, State.isUp, h]

/-- An event reaches event queues alone. -/
theorem State.raise_frame (p : Port) (e : Event) (s : State) : s.raise p e = { s with events := (s.raise p e).events } := by
  unfold State.raise
  split <;> rfl

theorem State.raises_frame (ports : List Port) (e : Event) (s : State) :
    ∃ events, ports.foldl (fun t q => t.raise q e) s = { s with events := events } := by
  induction ports generalizing s with
  | nil => exact ⟨s.events, rfl⟩
  | cons p rest ih =>
    obtain ⟨events, h⟩ := ih (s.raise p e)
    refine ⟨events, ?_⟩
    rw [List.foldl_cons, h, State.raise_frame]

theorem State.raiseOthers_frame (p : Port) (e : Event) (s : State) :
    s.raiseOthers p e = { s with events := (s.raiseOthers p e).events } := by
  obtain ⟨events, h⟩ := State.raises_frame (allFour.filter (fun q => q != p)) e s
  rw [State.raiseOthers, h]

@[simp] theorem EventPort.take_length (e : Event) (q : EventPort) (h : q.queue.length ≤ Config.eventCapacity) :
    (q.take e).queue.length ≤ Config.eventCapacity := by
  unfold EventPort.take
  split <;> simp <;> omega

@[simp] theorem EventPort.take_seq (e : Event) (q : EventPort) : (q.take e).seq = q.seq + 1 := rfl

@[simp] theorem EventPort.take_attention (e : Event) (q : EventPort) : (q.take e).attention = q.attention := rfl

/-! ### Responses -/

/-- A response to a request of a lost port goes nowhere, any other is handed on. -/
theorem State.replyUp_up {p : Port} (kind : Byte) (t : Tag) (body : RespBody) {s : State} (h : (s.hpu p).port = .up) :
    s.replyUp p kind t body = s.reply p kind t body := by
  simp [State.replyUp, State.isUp, h]

theorem State.replyUp_absent {p : Port} (kind : Byte) (t : Tag) (body : RespBody) {s : State}
    (h : (s.hpu p).port ≠ .up) : s.replyUp p kind t body = s := by
  simp [State.replyUp, State.isUp, h]

theorem State.replyUp_frame (p : Port) (kind : Byte) (t : Tag) (body : RespBody) (s : State) :
    s.replyUp p kind t body = { s with hpus := (s.replyUp p kind t body).hpus } := by
  unfold State.replyUp
  split <;> rfl

theorem State.replyHeld_nil (kind : Byte) (body : RespBody) (s : State) : s.replyHeld kind body [] = s := rfl

theorem State.replyHeld_cons (kind : Byte) (body : RespBody) (x : Port × Tag) (rest : List (Port × Tag)) (s : State) :
    s.replyHeld kind body (x :: rest) = (s.reply x.1 kind x.2 body).replyHeld kind body rest := rfl

/-! ### Watches -/

/-- The evaluation of one watch changes the Watch Table and the event queues alone. -/
theorem State.evalWatch_frame (v : Word) (o : Option Port) (w : Watch) (s : State) :
    s.evalWatch v o w = { s with watches := (s.evalWatch v o w).watches, events := (s.evalWatch v o w).events } := by
  simp only [State.evalWatch]
  split
  · rw [State.raise_frame]
    split <;> rfl
  · rfl

/-- The evaluation of a cell's watches changes the Watch Table and the event queues alone. -/
theorem State.evalWatches_frame (c : CellIx) (s : State) :
    s.evalWatches c = { s with watches := (s.evalWatches c).watches, events := (s.evalWatches c).events } := by
  have fold : ∀ (ws : List Watch) (v : Word) (o : Option Port) (t : State),
      ws.foldl (fun s' w => s'.evalWatch v o w) t =
        { t with
          watches := (ws.foldl (fun s' w => s'.evalWatch v o w) t).watches
          events := (ws.foldl (fun s' w => s'.evalWatch v o w) t).events } := by
    intro ws v o
    induction ws with
    | nil => intro t; rfl
    | cons w rest ih =>
      intro t
      rw [List.foldl_cons, ih, State.evalWatch_frame]
  unfold State.evalWatches
  split
  · exact fold _ _ _ _
  · rfl

end Sys2Proof.Machine
end

