-- ==== Sys2Proof/Laws/Park.lean ====
section
/-!
SUPPORT. What one evaluation of a parked entry, a pass and the whole cascade can touch: cells, stamp lists with the cells a
walk has passed, the Park List and send lists, and no other block. How its passes follow each other, what the responses of
an access report together, and when a claim of parked entries falls inside no access.
-/
namespace Sys2Proof.Machine

/-- The blocks a cascade leaves as they are. -/
structure SameElsewhere (s t : State) : Prop where
  watches : t.watches = s.watches
  events : t.events = s.events
  banks : t.banks = s.banks
  table : t.table = s.table
  config : t.config = s.config
  refresh : t.refresh = s.refresh
  resetHigh : t.resetHigh = s.resetHigh
  now : t.now = s.now
  pending : t.pending = s.pending

theorem SameElsewhere.rfl' (s : State) : SameElsewhere s s := ⟨rfl, rfl, rfl, rfl, rfl, rfl, rfl, rfl, rfl⟩

theorem SameElsewhere.trans {s t u : State} (h : SameElsewhere s t) (k : SameElsewhere t u) : SameElsewhere s u :=
  ⟨k.watches.trans h.watches, k.events.trans h.events, k.banks.trans h.banks, k.table.trans h.table,
   k.config.trans h.config, k.refresh.trans h.refresh, k.resetHigh.trans h.resetHigh, k.now.trans h.now,
   k.pending.trans h.pending⟩

theorem SameElsewhere.unpark (p : Port) (t : Tag) (s : State) : SameElsewhere s (s.unpark p t) :=
  ⟨rfl, rfl, rfl, rfl, rfl, rfl, rfl, rfl, rfl⟩

theorem SameElsewhere.renew (p : Port) (t : Tag) (v : Word) (o : Option Port) (s : State) :
    SameElsewhere s (s.renew p t v o) :=
  ⟨rfl, rfl, rfl, rfl, rfl, rfl, rfl, rfl, rfl⟩

theorem SameElsewhere.replyUp (p : Port) (kind : Byte) (t : Tag) (body : RespBody) (s : State) :
    SameElsewhere s (s.replyUp p kind t body) := by
  rw [State.replyUp_frame]
  exact ⟨rfl, rfl, rfl, rfl, rfl, rfl, rfl, rfl, rfl⟩

theorem SameElsewhere.endParked (e : ParkEntry) (o : OpOutcome) (s : State) : SameElsewhere s (s.endParked e o) :=
  (SameElsewhere.unpark _ _ s).trans (.replyUp _ _ _ _ _)

theorem SameElsewhere.moveStamp (c : CellIx) (before after : Option Port) (s : State) :
    SameElsewhere s (s.moveStamp c before after) := by
  unfold State.moveStamp
  split
  · exact .rfl' s
  · cases before <;> cases after <;> exact ⟨rfl, rfl, rfl, rfl, rfl, rfl, rfl, rfl, rfl⟩

theorem SameElsewhere.putCell (c : CellIx) (r : CellRec) (s : State) : SameElsewhere s (s.putCell c r) :=
  (SameElsewhere.moveStamp c (s.readCell c).owner r.owner s).trans ⟨rfl, rfl, rfl, rfl, rfl, rfl, rfl, rfl, rfl⟩

theorem SameElsewhere.evalParked (e : ParkEntry) (s : State) : SameElsewhere s (s.evalParked e).state := by
  unfold State.evalParked
  split
  · split
    · split
      · exact SameElsewhere.unpark _ _ s
      · exact (SameElsewhere.unpark _ _ s).trans (.putCell _ _ _)
    · exact SameElsewhere.renew _ _ _ _ s
  · exact .rfl' s

theorem SameElsewhere.cascadePass (l : List ParkEntry) (s : State) : SameElsewhere s (cascadePass l s).state := by
  induction l generalizing s with
  | nil => exact .rfl' s
  | cons e rest ih => exact (SameElsewhere.evalParked e s).trans (ih _)

theorem SameElsewhere.expireInCascade (c : CellIx) (n : Nat) (s : State) : SameElsewhere s (expireInCascade c n s) := by
  induction n generalizing s with
  | zero => exact .rfl' s
  | succ n ih =>
    have counted (u : State) : SameElsewhere u { u with choices := u.choices + 1 } :=
      ⟨rfl, rfl, rfl, rfl, rfl, rfl, rfl, rfl, rfl⟩
    simp only [Machine.expireInCascade]
    split
    · exact .rfl' s
    · split
      · exact ((counted s).trans (.endParked _ _ _)).trans (ih _)
      · exact counted s

theorem SameElsewhere.cascadeStep (c : CellIx) (x : Evaluated) : SameElsewhere x.state (cascadeStep c x).state := by
  unfold Machine.cascadeStep
  split
  · exact (SameElsewhere.cascadePass _ _).trans (.expireInCascade _ _ _)
  · exact .rfl' _

/-- What a cascade leaves as it is after any number of passes (R48, R51). -/
theorem SameElsewhere.cascadeSteps (c : CellIx) (n : Nat) (x : Evaluated) :
    SameElsewhere x.state (cascadeSteps c n x).state := by
  induction n generalizing x with
  | zero => exact .rfl' _
  | succ n ih => exact (SameElsewhere.cascadeStep c x).trans (ih _)

/-- What a cascade leaves as it is, whatever it releases (R48, R51). -/
theorem State.cascade_elsewhere (c : CellIx) (s : State) : SameElsewhere s (s.cascade c).1 :=
  SameElsewhere.cascadeSteps c _ { state := s, answers := [], changed := true }

/-- What an access that comes along touches: what its cascade touches (R48, R51, R58). -/
theorem SameElsewhere.comeTo (b : Bank) (a : Access) (passes entries : Nat) (x : Evaluated) :
    SameElsewhere x.state (comeTo b a passes entries x).1 :=
  (SameElsewhere.cascadeSteps a.cell passes x).trans (.cascadePass _ _)

@[simp] theorem comeTo_bank (b : Bank) (a : Access) (passes entries : Nat) (x : Evaluated) :
    (comeTo b a passes entries x).2.bank = b := rfl

@[simp] theorem comeTo_access (b : Bank) (a : Access) (passes entries : Nat) (x : Evaluated) :
    (comeTo b a passes entries x).2.access = a := rfl

/-! ### The passes, one after the other -/

/-- A cascade that has ended stays as it is (R50). -/
theorem cascadeSteps_ended (c : CellIx) (n : Nat) {x : Evaluated} (h : x.changed = false) : cascadeSteps c n x = x := by
  induction n with
  | zero => rfl
  | succ n ih => rw [cascadeSteps, cascadeStep, if_neg (by simp [h]), ih]

/-- Passes are made one after the other. -/
theorem cascadeSteps_add (c : CellIx) (m n : Nat) (x : Evaluated) :
    cascadeSteps c (m + n) x = cascadeSteps c n (cascadeSteps c m x) := by
  induction m generalizing x with
  | zero => rw [Nat.zero_add]; rfl
  | succ m ih => rw [Nat.succ_add]; exact ih _

/-- The responses made before a pass stay ahead of those it makes, and decide nothing (R34, R51). -/
theorem cascadeSteps_answers (c : CellIx) (n : Nat) (s : State) (made : List (Port × Response)) (changed : Bool) :
    cascadeSteps c n { state := s, answers := made, changed := changed } =
      { cascadeSteps c n { state := s, answers := [], changed := changed } with
        answers := made ++ (cascadeSteps c n { state := s, answers := [], changed := changed }).answers } := by
  induction n generalizing s made changed with
  | zero => simp [cascadeSteps]
  | succ n ih =>
    cases changed with
    | false => simp [cascadeSteps_ended]
    | true =>
      simp only [cascadeSteps, cascadeStep, if_true, List.nil_append]
      rw [ih, ih (made := (cascadePass (s.chain c) s).answers)]
      simp

/-- An access that changed its cell ends with its cascade's state, and with its own responses ahead of those of the cascade
(R34, R47, R51). -/
theorem Evaluated.runOut_opening (c : CellIx) (s : State) (made : List (Port × Response)) :
    (Evaluated.runOut c { state := s, answers := made, changed := true }).state = (s.cascade c).1 ∧
      (Evaluated.runOut c { state := s, answers := made, changed := true }).answers = made ++ (s.cascade c).2 := by
  unfold Evaluated.runOut
  rw [cascadeSteps_answers]
  exact ⟨rfl, rfl⟩

/-! ### Chains without an entry, or without an overdue one -/

/-- With no overdue entry nothing expires in a cascade (R53). -/
theorem expireInCascade_none {c : CellIx} {s : State} (h : s.overdue c = []) (n : Nat) : expireInCascade c n s = s := by
  cases n with
  | zero => rfl
  | succ n => simp only [expireInCascade, h]

/-- With an empty chain the cascade is nothing (R47). -/
theorem State.cascade_empty {c : CellIx} {s : State} (h : s.chain c = []) : s.cascade c = (s, []) := by
  have none : s.overdue c = [] := by simp [State.overdue, h]
  simp [State.cascade, Evaluated.runOut, h, cascadeSteps, cascadeStep, cascadePass, expireInCascade_none none]

/-- Responses handed one after the other join the send lists alone. -/
theorem State.handAll_frame (answers : List (Port × Response)) (s : State) :
    s.handAll answers = { s with hpus := (s.handAll answers).hpus } := by
  induction answers generalizing s with
  | nil => rfl
  | cons x rest ih =>
    have step : s.handAll (x :: rest) = (s.replyUp x.1 x.2.kind x.2.tag x.2.body).handAll rest := rfl
    rw [step, ih, State.replyUp_frame]

/-- With no bank performing an access that changes a cell on which one of the entries is parked, what claims them is taken as
it is. -/
theorem State.inside_none {hit : ParkEntry → Bool} {s : State} (h : ∀ b, s.inAccess hit b = false)
    (happening : State → State) : s.inside hit happening = happening s := by
  simp [State.inside, List.filter_eq_nil_iff.mpr (fun b _ => by simp [h b] : ∀ b ∈ allFour, ¬(s.inAccess hit b = true))]

/-! ### What the responses of one access report (R5, R33) -/

/-- The responses of one access on a LIVE cell, from the value and owner it had to those the access leaves: each executed
operation reports as old the value left by those before it and leaves what it reports as new, and a refused one leaves the
cell; so the last executed one reports the cell as the whole access leaves it (R33, R5). -/
inductive ReportsLead : Word → Option Port → List (Port × Response) → Word → Option Port → Prop where
  | ended (v : Word) (o : Option Port) : ReportsLead v o [] v o
  | refused {v w : Word} {o q : Option Port} {rest : List (Port × Response)} (p : Port) (t : Tag)
      (later : ReportsLead v o rest w q) : ReportsLead v o (operateAnswer p t (.refused .stampFull) :: rest) w q
  | executed {v w : Word} {o q : Option Port} {rest : List (Port × Response)} (p : Port) (t : Tag) (report : OpReport)
      (done : report.outcome = .done) (old : report.old = v) (later : ReportsLead report.new report.owner rest w q) :
      ReportsLead v o (operateAnswer p t (.operate report) :: rest) w q

theorem ReportsLead.append {v w x : Word} {o q u : Option Port} {l m : List (Port × Response)}
    (h : ReportsLead v o l w q) (k : ReportsLead w q m x u) : ReportsLead v o (l ++ m) x u := by
  induction h with
  | ended => exact k
  | refused p t _ ih => exact .refused p t (ih k)
  | executed p t report done old _ ih => exact .executed p t report done old (ih k)

/-- An evaluation, a pass or a cascade that started on a LIVE cell: its responses lead to the cell as it leaves it. -/
def Evaluated.Reports (c : CellIx) (v : Word) (o : Option Port) (r : Option Word) (x : Evaluated) : Prop :=
  ∃ w q, x.state.readCell c = .live w q r ∧ ReportsLead v o x.answers w q

theorem State.evalParked_reports {e : ParkEntry} {s : State} {v : Word} {o : Option Port} {r : Option Word}
    (live : s.readCell e.cell = .live v o r) : (s.evalParked e).Reports e.cell v o r := by
  unfold State.evalParked
  simp only [live]
  split
  · split
    · exact ⟨v, o, live, .refused _ _ (.ended v o)⟩
    · exact ⟨_, _, State.putCell_read_same _ _ _, .executed _ _ _ rfl rfl (.ended _ _)⟩
  · exact ⟨v, o, live, .ended v o⟩

theorem cascadePass_reports {c : CellIx} {l : List ParkEntry} {s : State} {v : Word} {o : Option Port} {r : Option Word}
    (on : ∀ e ∈ l, e.cell = c) (live : s.readCell c = .live v o r) : (cascadePass l s).Reports c v o r := by
  induction l generalizing s v o with
  | nil => exact ⟨v, o, live, .ended v o⟩
  | cons e rest ih =>
    obtain rfl := on e (List.mem_cons_self ..)
    obtain ⟨w, q, left, lead⟩ := State.evalParked_reports live
    obtain ⟨w', q', left', lead'⟩ := ih (fun x hx => on x (List.mem_cons_of_mem _ hx)) left
    exact ⟨w', q', left', lead.append lead'⟩

/-- Expiries inside a cascade change no cell (R52, R53). -/
theorem expireInCascade_cells (c : CellIx) (n : Nat) (s : State) : (expireInCascade c n s).cells = s.cells := by
  induction n generalizing s with
  | zero => rfl
  | succ n ih =>
    simp only [expireInCascade]
    split
    · rfl
    · split
      · rw [ih, State.endParked, State.answerParked, State.replyUp_frame]
        rfl
      · rfl

theorem cascadeSteps_reports {c : CellIx} (n : Nat) {x : Evaluated} {v : Word} {o : Option Port} {r : Option Word}
    (h : x.Reports c v o r) : (cascadeSteps c n x).Reports c v o r := by
  induction n generalizing x with
  | zero => exact h
  | succ n ih =>
    apply ih
    unfold cascadeStep
    split
    · obtain ⟨w, q, live, lead⟩ := h
      have on : ∀ e ∈ x.state.chain c, e.cell = c := fun e he => by simpa using (List.mem_filter.1 he).2
      obtain ⟨w', q', left, lead'⟩ := cascadePass_reports on live
      exact ⟨w', q', by simpa [State.readCell, expireInCascade_cells] using left, lead.append lead'⟩
    · exact h

/-- The responses of an access that changed its LIVE cell, its own and those of its cascade, report a chain of values from
the cell as the access found it to the cell as the access leaves it, after any cascade (R5, R33). -/
theorem State.executed_reports (p : Port) (t : Tag) (c : CellIx) (op : OpFields) (v : Word) (o : Option Port)
    (r : Option Word) (s : State) : (Evaluated.runOut c (s.executed p t c op v o r)).Reports c v o r :=
  cascadeSteps_reports _
    ⟨_, _, State.putCell_read_same _ _ _, .executed _ _ (doneReport op p v o) rfl rfl (.ended _ _)⟩

/-- So do those of an access that made its cell LIVE, from the value 0 and no owner (R5, R7, R33). -/
theorem State.created_reports (p : Port) (t : Tag) (c : CellIx) (op : OpFields) (s : State) :
    (Evaluated.runOut c (s.created p t c op)).Reports c 0 none none :=
  cascadeSteps_reports _ ⟨_, _, State.putCell_read_same _ _ _, .executed _ _ (createdReport op p) rfl rfl (.ended _ _)⟩

/-- And those of a recovery access that acts, from the value it left and no owner (R5, R33, R166). -/
theorem State.recovered_reports (c : CellIx) (policy : LossPolicy) (default : Option Word) (v : Word) (r : Option Word)
    (s : State) :
    (Evaluated.runOut c (s.recovered c policy default v r)).Reports c (recoveredValue policy v r default) none r :=
  cascadeSteps_reports _ ⟨_, _, State.putCell_read_same _ _ _, .ended _ _⟩

end Sys2Proof.Machine
end

