-- ==== Sys2Proof/Laws/Requests.lean ====
section
/-!
SUPPORT. The 21 requests under one head: what each does once admitted, and the four ways a request frame ends, so that a
law of requests is proved once for every kind.
-/
namespace Sys2Proof.Machine

/-- What an admitted request of a kind does. -/
def serveOf (k : Kind) (p : Port) (f : Frame) (s : State) : State :=
  match k with
  | .operate => serveOperate p f s
  | .groupRead => s.enqueue (cellAccess p f .groupRead)
  | .setRecovery => s.enqueue (cellAccess p f (.setRecovery f.recoveryField))
  | .cancel => serveCancel p f s
  | .watch => serveWatch p f s
  | .unwatch => serveUnwatch p f s
  | .fetchEvents => serveFetchEvents p f s
  | .attnOn => (s.setAttention p true).answer .attnOn p f .ok
  | .attnOff => (s.setAttention p false).answer .attnOff p f .ok
  | .quiesce => (s.modRefresh (fun r => { r with votes := r.votes.set p true })).answer .quiesce p f .ok
  | .wake => serveWake p f s
  | .writeRegion => serveWriteRegion p f s
  | .readRegion => s.answer .readRegion p f (s.table.readAnswer f.lowByte)
  | .writeSettings => serveWriteSettings p f s
  | .initCells => serveInitCells p f s
  | .commit => serveCommit p f s
  | .reopen => serveReopen p f s
  | .stay => serveStay p f s
  | .join => serveJoin p f s
  | .leave => serveLeave p f s
  | .status => s.answer .status p f (.status (s.statusReport p))

theorem exec_requestOf (k : Kind) (p : Port) (f : Frame) (s : State) :
    exec (requestOf k p f) s = whileReleased s (fun s => s.receiveRequest k p f (serveOf k p f)) := by
  cases k <;> rfl

theorem exec_requestOf_released {k : Kind} {p : Port} {f : Frame} {s : State} (h : s.resetHigh = true) :
    exec (requestOf k p f) s = .next (s.receiveRequest k p f (serveOf k p f)) := by
  rw [exec_requestOf, whileReleased, if_pos h]

/-- A ready request that checks 3 to 7 refuse with a status is answered with it, and nothing else happens. -/
theorem exec_refused {k : Kind} {p : Port} {f : Frame} {s : State} {st : Status} (h : Ready k p f s)
    (hr : (s.receiveValid p).refusal k p f = some st) :
    exec (requestOf k p f) s = .next (s.answered k p f (.refused st)) := by
  rw [exec_requestOf_released h.released, State.receiveRequest_refused h.length h.tagFree hr]

/-- A ready request that checks 3 to 7 pass is acted on in the state `admitted`. -/
theorem exec_served {k : Kind} {p : Port} {f : Frame} {s : State} (h : Ready k p f s)
    (hr : (s.receiveValid p).refusal k p f = none) :
    exec (requestOf k p f) s = .next (serveOf k p f (s.admitted (keepsVote k) p f)) := by
  rw [exec_requestOf_released h.released, State.receiveRequest_served h.length h.tagFree hr]

/-- An answer to an admitted request joins its port's send list: the frame that carried the request left the link
ALIVE. -/
theorem State.answer_alive {k : Kind} {p : Port} {f : Frame} {body : RespBody} {s : State}
    (h : (s.hpu p).link = .alive) : s.answer k p f body = s.handed p [responseTo k f body] :=
  State.reply_alive _ _ _ h

theorem State.admitted_alive (v : Bool) (p : Port) (f : Frame) (s : State) : ((s.admitted v p f).hpu p).link = .alive := by
  simp

end Sys2Proof.Machine
end

