-- ==== Sys2Proof/Tests/Slice0.lean ====
section
/-!
SUPPORT. The model's own tests: single commands on small states, the expected results read from the manual's tables and
worked examples; the check of ill-formed commands; and, for each statement with hypotheses, a state and operands that meet
them together (`witness_…`).
-/
namespace Sys2Proof.Tests
open Sys2Proof Sys2Proof.Machine

/-! ### Small states and frames -/

/-- A port that is UP. -/
def upPort : Hpu := { Hpu.reset with link := .alive, port := .up, recvTimer := some 0, sendTimer := some 0 }

/-- A port in LINKED. -/
def linkedPort : Hpu := { upPort with port := .linked }

/-- A port in CLEARING on an ALIVE link. -/
def clearingPort : Hpu := { upPort with port := .clearing }

/-- A region over the whole part with right UPDATE for every port. -/
def whole : RegionEntry :=
  { valid := true, base := 0, length := 65536, rights := Four.all .update, policy := .restore, default := 7 }

/-- The Region Table with given first entries. -/
def tableOf (first : List RegionEntry) : RegionTable :=
  { entries := first ++ List.replicate (16 - first.length) RegionEntry.reset, settings := Settings.reset, generation := 1 }

/-- In RUN, ports 0 and 1 UP, one region over the whole part. -/
def running : State :=
  { State.reset with
    hpus := ⟨upPort, upPort, Hpu.reset, Hpu.reset⟩
    table := tableOf [whole]
    config := { State.reset.config with state := .run } }

/-- The same in another configuration state. -/
def inConfig (k : ConfigCtl) : State := { running with config := k }

/-- The same in SETUP. -/
def inSetup : State := inConfig State.reset.config

/-- The same with another Refresh Controller. -/
def withRefresh (r : RefreshCtl) : State := { running with refresh := r }

/-- The same with cell 5 LIVE. -/
def withCell (value : Word) (owner : Option Port) (recovery : Option Word) (s : State) : State :=
  { s with
    cells := s.cells.write 5 (.live value owner recovery)
    stamps := match owner with
      | some p => s.stamps.set p [5]
      | none => s.stamps }

/-- An access at its cell's bank, its row open. -/
def performing (a : Access) (s : State) : State :=
  { s with banks := s.banks.set (bankOf a.cell) { state := .accessing a.row, current := some a, queue := [] } }

/-- A host access of port 0 with tag 2 to cell 5. -/
def hostAccess (w : Work) : Access := { port := 0, tag := some 2, cell := 5, work := w, bypass := 0 }

/-- A frame whose length field agrees with its payload. -/
def frame (tag : Tag) (payload : List Word) : Frame := { tag := tag, length := BitVec.ofNat 8 payload.length, payload := payload }

/-- The state after a command. -/
def after (c : Instr) (s : State) : State :=
  match exec c s with
  | .next t => t
  | .fault _ => s
  | .refused _ => s

/-- The bodies of the responses a port has to send. -/
def answers (s : State) (p : Port) : List RespBody := (s.hpu p).sendList.map (fun r => r.body)

/-! ### Well-formedness: every check refuses an ill-formed term -/

theorem test_badKind_of_a_known_kind_is_illFormed : (Instr.badKind 0 0x15 (frame 0 [])).wf = false := by decide
theorem test_badKind_of_the_idle_kind_is_illFormed : (Instr.badKind 0 0x00 (frame 0 [])).wf = false := by decide
theorem test_badKind_from_16h_is_wellFormed : (Instr.badKind 0 0x16 (frame 0 [])).wf = true := by decide
theorem test_frameCheck_of_passing_words_is_illFormed : (Instr.frameCheck 0 [0, 0xFFFFFFFF]).wf = false := by decide
theorem test_frameCheck_of_failing_words_is_wellFormed : (Instr.frameCheck 0 [0, 0xFFFFFFFE]).wf = true := by decide

/-! ### Frames on the wire (R150, R171, 11.1) -/

/-- STATUS with tag 2: kind 15h in bits 31 to 24, tag in bits 18 to 16, length 0; its check word is the complement. -/
theorem test_decode_status : decodeFrame 3 [0x15020000, 0xEAFDFFFF] = .status 3 (frame 2 []) := by decide
/-- R149: the idle frame is a header of zeros and its check word. -/
theorem test_decode_idle : decodeFrame 1 [0, 0xFFFFFFFF] = .idleFrame 1 (frame 0 []) := by decide
/-- CANCEL of tag 3 with tag 1: kind 04h, one payload word. -/
theorem test_decode_cancel :
    decodeFrame 0 [0x04010001, 0x00000003, 0xFBFEFFFB] = .cancel 0 (frame 1 [3]) := by decide
theorem test_decode_unknown_kind : decodeFrame 0 [0x16000000, 0xE9FFFFFF] = .badKind 0 0x16 (frame 0 []) := by decide
theorem test_decode_one_word_fails_the_check : decodeFrame 0 [0xFFFFFFFF] = .frameCheck 0 [0xFFFFFFFF] := by decide
/-- The reserved bits 23 to 19 and 15 to 8 of the header are not read (R171). -/
theorem test_decode_reserved_bits : decodeFrame 0 [0x13F9FF00, 0xEC0600FF] = .join 0 (frame 1 []) := by decide

/-- OPERATE's word 1 (R172): cell 0005h, predicate EQ, ownership NONE, update SET, stamp STAMP. -/
theorem test_operate_fields :
    (frame 2 [0x04510005, 7, 1, 0x0001FFFF]).operateFields =
      some { pred := .eq, cmp := 7, own := .none, upd := .set, arg := 1, stamp := .stamp, patience := 65535 } := by decide
/-- Update code 9, the first undefined one, is no update. -/
theorem test_operate_undefined_update : (frame 2 [0x02400005, 7, 1, 0]).operateFields = none := by decide
theorem test_write_region_undefined_right : (frame 2 [0x00030100, 0, 1, 0]).regionFields = none := by decide

/-- The WATCH response (R173): id in bits 12 to 8, last result in bits 17 and 16, owner code in bits 26 to 24. -/
theorem test_watch_response_words : RespBody.words (.watch 31 9 (some 3) (some true)) = [0x03031F00, 9] := by decide
/-- The OPERATE response (R173): outcome FALSE, C and N set, no owner. -/
theorem test_operate_response_words :
    RespBody.words (.operate
      { outcome := .false, old := 0, new := 0, owner := none, flags := compareFlags 0 1, wrapped := false }) =
      [0x04050100, 0, 0] := by decide

/-! ### Operands (R4, R21, R22, R25, R26) -/

/-- "cells 64 to 79 in bank 0 row 1" (Addressing at a glance). -/
theorem test_cell_64 : (bankOf 64).val = 0 ∧ rowOf 64 = 1 ∧ columnOf 79 = 15 := by decide
theorem test_cell_65535 : (bankOf 65535).val = 3 ∧ rowOf 65535 = 1023 ∧ columnOf 65535 = 15 := by decide
/-- 0 less 1 borrows: C and N set, Z and V clear. -/
theorem test_flags_zero_one : compareFlags 0 1 = { c := true, z := false, n := true, v := false } := by decide
/-- The most negative number less 1: V set, so LT holds and ULT does not. -/
theorem test_flags_overflow :
    compareFlags 0x80000000 1 = { c := false, z := false, n := false, v := true } := by decide
theorem test_signed_below_unsigned_above :
    predHolds .lt (compareFlags 0x80000000 1) = true ∧ predHolds .ult (compareFlags 0x80000000 1) = false := by decide
theorem test_add_wraps : applyUpdate .add 0xFFFFFFFF 1 = 0 ∧ updateWraps .add 0xFFFFFFFF 1 = true := by decide
theorem test_sub_wraps : applyUpdate .sub 0 1 = 0xFFFFFFFF ∧ updateWraps .sub 0 1 = true := by decide
theorem test_max_is_unsigned : applyUpdate .max 0x80000000 1 = 0x80000000 := by decide

/-! ### Single commands -/

/-- Takes a count from a semaphore: UGT 0, SUB 1. -/
def takeOne (patience : Nat) : OpFields :=
  { pred := .ugt, cmp := 0, own := .any, upd := .sub, arg := 1, stamp := .keep, patience := patience }

/-- Puts a count back. -/
def addOne : OpFields :=
  { pred := .always, cmp := 0, own := .any, upd := .add, arg := 1, stamp := .keep, patience := 0 }

/-- Takes a lock: EQ 0 on an unowned cell, SET 1, STAMP. -/
def lockOp : OpFields := { pred := .eq, cmp := 0, own := .none, upd := .set, arg := 1, stamp := .stamp, patience := 0 }

/-- An entry of port 1 with tag 4 parked on cell 5. -/
def waiting : ParkEntry :=
  { port := 1, tag := 4, cell := 5, op := takeOne 100, deadline := some 100000, lastValue := 0, lastOwner := none,
    lastFlags := compareFlags 0 0 }

theorem test_join_goes_up :
    ((after (.join 0 (frame 1 [])) { State.reset with hpus := Four.all linkedPort }).hpu 0).port = .up := by decide
theorem test_join_asleep :
    answers (after (.join 0 (frame 1 [])) { withRefresh { State.reset.refresh with power := .retained } with
      hpus := Four.all linkedPort }) 0 = [.refused .asleep] := by decide
theorem test_operate_joins_the_queue :
    ((after (.operate 0 (frame 2 [0x00C70005, 0, 1, 0])) running).bank 0).state = .opening 0 := by decide
theorem test_operate_undefined_update_is_refused :
    answers (after (.operate 0 (frame 2 [0x02400005, 0, 1, 0])) running) 0 = [.refused .badField] := by decide
theorem test_operate_takes :
    answers (after (.operateAccess 0) (performing (hostAccess (.operate (takeOne 0))) (withCell 3 none none running))) 0 =
      [.operate
        { outcome := .done, old := 3, new := 2, owner := none, flags := compareFlags 3 0, wrapped := false }] := by
  decide
/-- 12.1, the give of 1: "DONE, old 0, new 1" for the give, "DONE, old 1, new 0" for the take it releases (R5, R30, R33). -/
theorem test_operate_releases_the_waiter :
    let s := after (.operateAccess 0)
      { performing (hostAccess (.operate addOne)) (withCell 0 none none running) with park := [waiting] }
    s.park = [] ∧
    (answers s 0 ++ answers s 1).map (fun b => match b with | .operate r => [r.old, r.new] | _ => []) = [[0, 1], [1, 0]] := by
  decide
theorem test_lock_is_stamped :
    (after (.operateAccess 0) (performing (hostAccess (.operate lockOp)) (withCell 0 none none running))).stamps.get 0 =
      [5] := by decide
theorem test_set_recovery_answers_the_value_before :
    answers (after (.setRecoveryAccess 0)
      (performing (hostAccess (.setRecovery (some 9))) (withCell 3 none (some 4) running))) 0 =
      [.setRecovery (some 4)] := by decide
theorem test_recovery_restores :
    (after (.recoveryAccess 0)
      { performing { port := 2, tag := none, cell := 5, work := .recovery .restore (some 7), bypass := 0 }
          (withCell 3 (some 2) (some 4) running) with
        hpus := ⟨upPort, upPort, clearingPort, Hpu.reset⟩
        teardown := Four.set (Four.all none) 2
          (some
            { reason := .leave, phase := .recovering, awaited := Four.all false, passed := [], current := some 5,
              restored := 0, released := 0, held := 0 }) }).readCell 5 = .live 4 none (some 4) := by decide
theorem test_leave_clears_and_completes :
    ((after (.leave 1 (frame 0 [])) running).hpu 1).port = .linked := by decide
theorem test_write_region_in_run_is_refused :
    answers (after (.writeRegion 0 (frame 0 [0, 0, 1, 0])) running) 0 = [.refused .notSetup] := by decide
theorem test_write_settings_mask :
    (after (.writeSettings 0 (frame 0 [0x00050102])) inSetup).table.settings =
      { interval := 2, page := .closed, mask := 5 } := by decide
theorem test_init_cells_counts_its_groups :
    ({ base := 15, count := 2, value := 0, recovery := none } : InitFields).groups = 2 := by decide
theorem test_interval_expiry_raises_the_debt :
    (after .refreshIntervalExpiry (performing (hostAccess .groupRead) running)).refresh.debt = 1 := by decide
theorem test_retention_loses_the_unmasked_banks :
    (after .retentionEntry
      (withCell 3 none none
        (withRefresh { State.reset.refresh with power := .entering, hold := true, placing := some 0xE }))).readCell 5 =
      .lost := by decide
theorem test_table_words_spell_no_command : decodeTableWord 32 0x15020000 = none := by decide
theorem test_step_takes_the_front :
    ∃ t, step { running with pending := [.stepToRun, .drainEnd] } = .next t ∧ t.pending = [.drainEnd] := ⟨_, rfl, rfl⟩

/-! ### Witnesses: the hypotheses of each statement, clause by clause, are met together -/

theorem witness_IdleStepPassesOneMicrosecond :
    ({ running with
        hpus := running.hpus.set 0 { upPort with recvTimer := some 399, sendTimer := some 99 }
        refresh := { running.refresh with timer := some 1 }
        park := [waiting] } : State).pending = [] ∧ running.resetHigh = true := by decide

theorem witness_DeviceResetAndItsRelease :
    running.heldInReset.resetHigh = false ∧ exec .deviceReset running = .next running.heldInReset ∧
      Instr.bankPick 0 ≠ .deviceReset ∧ Instr.bankPick 0 ≠ .resetRelease := ⟨rfl, rfl, by decide⟩

theorem witness_FramesAreReadAsTheirCommands :
    unknownKind 0x16 = true ∧ unknownKind 0xFF = true ∧ frameCheckOk [] = false := by decide

theorem witness_FieldsAreReadAtTheirBits :
    1 ≤ 4 ∧ 4 ≤ (frame 2 [0x04510005, 7, 1, 0x0001FFFF]).payload.length ∧
      (frame 2 [0x04510005, 7, 1, 0x0001FFFF]).payload[4 - 1]? = some 0x0001FFFF := by decide

theorem witness_IdleAndDamagedFrames :
    running.resetHigh = true ∧ (frame 0 []).length = 0 ∧ (frame 0 []).payload = [] ∧ (running.hpu 0).link = .alive ∧
      (running.hpu 2).link = .dead ∧ frameCheckOk [0, 1] = false ∧ (running.hpu 0).port = .up ∧
      (running.eventPort 0).queue.length < 16 ∧
      16 ≤ ({ running with
        events := Four.all { queue := List.replicate 16 { seq := 0, event := .running }, seq := 16, attention := true } }
          : State).events.zero.queue.length ∧
      (running.hpu 2).port ≠ .up := by decide

/-- A tag of port 0 is OUTSTANDING. -/
def tagTaken : State := { running with hpus := running.hpus.set 0 { upPort with tags := (Eight.all .free).set 2 .outstanding } }

theorem witness_FaultyFramesAreDiscardedOrRefused :
    (frame 2 [1]).payload.length ≠ Kind.payloadWords .status ∧ unknownKind 0x16 = true ∧
      (⟨2, 3, [1]⟩ : Frame).length.toNat ≠ (⟨2, 3, [1]⟩ : Frame).payload.length ∧ (frame 2 [1]).payload ≠ [] ∧
      tagTaken.resetHigh = true ∧ tagTaken.tagState 0 (frame 2 []).tag = .outstanding ∧
      lengthOk .status (frame 2 []) = true ∧ (frame 2 []).length.toNat = (frame 2 []).payload.length ∧
      (frame 2 [1]).length.toNat = (frame 2 [1]).payload.length ∧ running.tagState 0 (frame 2 [1]).tag = .free := by decide

/-- In LINKED, the part in RETAINED. -/
def asleepUnjoined : State :=
  { withRefresh { State.reset.refresh with power := .retained, hold := true } with hpus := Four.all linkedPort }

theorem witness_PortPowerAndConfigurationStatesRefuse_unjoined :
    Ready .wake 0 (frame 0 []) asleepUnjoined ∧ (asleepUnjoined.hpu 0).validFrame.port = .linked ∧
      Ready .join 0 (frame 0 []) asleepUnjoined ∧ asleepUnjoined.refresh.power ≠ .active ∧
      Ready .status 0 (frame 0 []) asleepUnjoined := by
  exact ⟨⟨rfl, rfl, rfl⟩, rfl, ⟨rfl, rfl, rfl⟩, by decide, ⟨rfl, rfl, rfl⟩⟩

theorem witness_PortPowerAndConfigurationStatesRefuse_clearing :
    Ready .wake 0 (frame 0 []) { running with hpus := Four.all clearingPort } ∧
      clearingPort.validFrame.port = .clearing := ⟨⟨rfl, rfl, rfl⟩, rfl⟩

theorem witness_PortPowerAndConfigurationStatesRefuse_asleep :
    Ready .quiesce 0 (frame 0 []) (withRefresh { State.reset.refresh with power := .entering }) ∧
      ((withRefresh { State.reset.refresh with power := .entering }).hpu 0).port = .up ∧
      (withRefresh { State.reset.refresh with power := .entering }).refresh.power ≠ .active := by
  exact ⟨⟨rfl, rfl, rfl⟩, rfl, by decide⟩

theorem witness_PortPowerAndConfigurationStatesRefuse_config :
    Accepted .quiesce 0 (frame 0 []) inSetup ∧ inSetup.config.state ≠ .run ∧ Accepted .reopen 0 (frame 0 []) inSetup ∧
      Accepted .commit 0 (frame 0 [1]) running ∧ running.config.state ≠ .setup := by
  exact ⟨⟨⟨rfl, rfl, rfl⟩, rfl, rfl⟩, by decide, ⟨⟨rfl, rfl, rfl⟩, rfl, rfl⟩, ⟨⟨rfl, rfl, rfl⟩, rfl, rfl⟩, by decide⟩

theorem witness_RightsAreChecked_noRegion :
    Accepted .groupRead 0 (frame 2 [5]) { running with table := tableOf [] } ∧
      ∀ e ∈ (tableOf []).entries, e.covers (frame 2 [5]).cell = false := by
  exact ⟨⟨⟨rfl, rfl, rfl⟩, rfl, rfl⟩, by decide⟩

/-- A region over the whole part that port 0 may read alone. -/
def readOnly : RegionEntry := { whole with rights := (Four.all Right.update).set 0 .read }

theorem witness_RightsAreChecked_denied :
    Accepted .operate 0 (frame 2 [0x00400005, 0, 1, 0]) { running with table := tableOf [readOnly] } ∧
      (tableOf [readOnly]).entries = [] ++ readOnly :: List.replicate 15 RegionEntry.reset ∧
      readOnly.covers (frame 2 [0x00400005, 0, 1, 0]).cell = true ∧ readOnly.rights.get 0 = .read ∧
      bitsOf ((frame 2 [0x00400005, 0, 1, 0]).word 1) 22 4 = 1 := by
  exact ⟨⟨⟨rfl, rfl, rfl⟩, rfl, rfl⟩, rfl, rfl, rfl, by decide⟩

theorem witness_UndefinedFieldValuesAreRefused_numbers :
    Accepted .unwatch 0 (frame 2 [32]) inSetup ∧ bitsOf ((frame 2 [32]).word 1) 0 8 = 32 ∧
      Accepted .readRegion 0 (frame 2 [17]) inSetup ∧ bitsOf ((frame 2 [17]).word 1) 0 8 = 17 ∧
      Accepted .writeRegion 0 (frame 2 [16, 0, 1, 0]) inSetup ∧
      65536 < bitsOf ((frame 2 [0, 65535, 2, 0]).word 2) 0 16 + bitsOf ((frame 2 [0, 65535, 2, 0]).word 3) 0 17 ∧
      Accepted .writeSettings 0 (frame 2 [13]) inSetup ∧ 12 < bitsOf ((frame 2 [13]).word 1) 0 8 ∧
      bitsOf ((frame 2 [1]).word 1) 0 8 < 2 ∧ Accepted .initCells 0 (frame 2 [0, 0, 0, 0]) inSetup := by
  exact ⟨⟨⟨rfl, rfl, rfl⟩, rfl, rfl⟩, by decide, ⟨⟨rfl, rfl, rfl⟩, rfl, rfl⟩, by decide, ⟨⟨rfl, rfl, rfl⟩, rfl, rfl⟩,
    by decide, ⟨⟨rfl, rfl, rfl⟩, rfl, rfl⟩, by decide, by decide, ⟨⟨rfl, rfl, rfl⟩, rfl, rfl⟩⟩

theorem witness_UndefinedFieldValuesAreRefused_codes :
    Accepted .operate 0 (frame 2 [0x000B0005, 0, 0, 0]) running ∧ running.config.state = .run ∧
      running.table.regionOf (frame 2 [0x000B0005, 0, 0, 0]).cell = some whole ∧ whole.rights.get 0 = .update ∧
      bitsOf ((frame 2 [0x000B0005, 0, 0, 0]).word 1) 16 4 = 11 ∧ Accepted .watch 0 (frame 2 [0x000C0005, 0]) running ∧
      bitsOf ((frame 2 [0x000C0005, 0]).word 1) 16 4 = 12 := by
  exact ⟨⟨⟨rfl, rfl, rfl⟩, rfl, rfl⟩, rfl, rfl, rfl, by decide, ⟨⟨rfl, rfl, rfl⟩, rfl, rfl⟩, by decide⟩

theorem witness_UndefinedFieldValuesAreRefused_readOnly :
    Accepted .operate 0 (frame 2 [0x000B0005, 0, 0, 0]) { running with table := tableOf [readOnly] } ∧
      (tableOf [readOnly]).regionOf (frame 2 [0x000B0005, 0, 0, 0]).cell = some readOnly ∧
      readOnly.rights.get 0 ≠ .none ∧ bitsOf ((frame 2 [0x000B0005, 0, 0, 0]).word 1) 22 4 = 0 ∧
      bitsOf ((frame 2 [0x000B0005, 0, 0, 0]).word 1) 26 2 = 0 ∧
      11 ≤ bitsOf ((frame 2 [0x000B0005, 0, 0, 0]).word 1) 16 4 :=
  ⟨⟨⟨rfl, rfl, rfl⟩, rfl, rfl⟩, by decide⟩

/-- Bank 0 in a state with a current access or none. -/
def bankIn (st : BankState) (current : Option Access) (s : State) : State :=
  { s with banks := s.banks.set 0 { state := st, current := current, queue := [] } }

/-- Bank 0 READY with a row open. -/
def readyAt (row : Nat) (s : State) : State :=
  { s with banks := s.banks.set 0 { state := .ready row, current := none, queue := [] } }

theorem witness_CellRequestJoinsItsBankQueue :
    Accepted .groupRead 0 (frame 2 [5]) running ∧ running.config.state = .run ∧
      requestedWork .groupRead (frame 2 [5]) = some .groupRead ∧ running.table.regionOf (frame 2 [5]).cell = some whole ∧
      workPermitted .groupRead (whole.rights.get 0) ∧ running.refresh.hold = false ∧
      running.bank (bankOf (frame 2 [5]).cell) = { state := .idle, current := none, queue := [] } ∧
      (readyAt 1 running).bank (bankOf (frame 2 [5]).cell) = { state := .ready 1, current := none, queue := [] } ∧
      ((performing (hostAccess .groupRead) running).bank (bankOf (frame 2 [5]).cell)).current ≠ none ∧
      ((bankIn (.closing 1) none running).bank (bankOf (frame 2 [5]).cell)).state = .closing 1 := by
  refine ⟨⟨⟨rfl, rfl, rfl⟩, rfl, rfl⟩, rfl, rfl, rfl, ?_, rfl, rfl, rfl, by decide, rfl⟩
  exact (by decide : Right.update ≠ Right.none)

theorem witness_CellRequestJoinsItsBankQueue_kinds :
    (requestedWork .operate (frame 2 [0x00C70005, 0, 1, 0])).isSome = true ∧
      requestedWork .setRecovery (frame 2 [0x00010005, 9]) = some (.setRecovery (some 9)) ∧
      (requestedWork .watch (frame 2 [0x000B0005, 0])).isSome = true := by decide

theorem witness_AttentionAndFetchedRecords :
    Accepted .attnOn 0 (frame 2 []) running ∧ Accepted .attnOff 0 (frame 2 []) running ∧
      Ready .fetchEvents 0 (frame 2 []) running ∧ (running.hpu 0).port = .up := by
  exact ⟨⟨⟨rfl, rfl, rfl⟩, rfl, rfl⟩, ⟨⟨rfl, rfl, rfl⟩, rfl, rfl⟩, ⟨rfl, rfl, rfl⟩, rfl⟩

theorem witness_StatusReportsThePart :
    Ready .status 0 (frame 2 []) asleepUnjoined ∧ (asleepUnjoined.hpu 0).validFrame.port ≠ .down ∧
      Ready .status 3 (frame 2 []) State.reset ∧ (State.reset.hpu 3).validFrame.port ≠ .down := by
  exact ⟨⟨rfl, rfl, rfl⟩, by decide, ⟨rfl, rfl, rfl⟩, by decide⟩

/-- An entry of port 1 parked. -/
def parked : State := { running with park := [waiting] }

theorem parked_notInChange : parked.NotInChange waiting := by
  intro b row a u made hb
  have hi : (parked.bank b).state = .idle := (by decide : ∀ b, (parked.bank b).state = .idle) b
  rw [hi] at hb
  cases hb

theorem witness_CancelExpiryAndUnwatchRemoveTheirEntry_park :
    Accepted .cancel 1 (frame 2 [4]) parked ∧ parked.park = [] ++ waiting :: [] ∧ waiting.port = 1 ∧
      waiting.tag = (frame 2 [4]).targetTag ∧ Accepted .cancel 1 (frame 2 [4]) running ∧
      (∀ x ∈ running.park, ¬(x.port = 1 ∧ x.tag = (frame 2 [4]).targetTag)) ∧ parked.resetHigh = true ∧
      waiting.deadline = some 100000 ∧ (parked.hpu waiting.port).port = .up ∧ (parked.hpu waiting.port).link = .alive ∧
      parked.NotInChange waiting := by
  exact ⟨⟨⟨rfl, rfl, rfl⟩, rfl, rfl⟩, rfl, rfl, rfl, ⟨⟨rfl, rfl, rfl⟩, rfl, rfl⟩, by decide, rfl, rfl, rfl, rfl,
    parked_notInChange⟩

/-- Its cell is being read, which leaves it as it is (R57). -/
theorem reading_notInChange : (performing (hostAccess .groupRead) parked).NotInChange waiting := by
  intro b row a u made hb ha _ ho
  have hc : ∀ b, (((performing (hostAccess .groupRead) parked).bank b).current.all
      (fun a => decide (a.work = .groupRead))) = true := by decide
  have hw := hc b
  rw [ha] at hw
  have hr : a.work = .groupRead := by simpa using hw
  cases ho with
  | executes work => rw [hr] at work; cases work
  | creates work => rw [hr] at work; cases work
  | recovers work => rw [hr] at work; cases work

theorem witness_CancelExpiryAndUnwatchRemoveTheirEntry_reading :
    Accepted .cancel 1 (frame 2 [4]) (performing (hostAccess .groupRead) parked) ∧
      (performing (hostAccess .groupRead) parked).park = [] ++ waiting :: [] ∧
      (performing (hostAccess .groupRead) parked).NotInChange waiting :=
  ⟨⟨⟨rfl, rfl, rfl⟩, rfl, rfl⟩, rfl, reading_notInChange⟩

/-- A watch of port 0 on cell 5. -/
def watching : Watch :=
  { id := 31, port := 0, cell := 5, trigger := .pred .eq 0, mode := .once, last := some false }

theorem witness_CancelExpiryAndUnwatchRemoveTheirEntry_watch :
    Accepted .unwatch 0 (frame 2 [31]) { running with watches := [watching] } ∧
      bitsOf ((frame 2 [31]).word 1) 0 8 < 32 ∧ [watching] = [] ++ watching :: [] ∧ watching.port = 0 ∧
      watching.id = bitsOf ((frame 2 [31]).word 1) 0 8 ∧ Accepted .unwatch 1 (frame 2 [31]) { running with watches := [watching] } ∧
      ∀ x ∈ [watching], ¬(x.id = bitsOf ((frame 2 [31]).word 1) 0 8 ∧ x.port = 1) := by
  exact ⟨⟨⟨rfl, rfl, rfl⟩, rfl, rfl⟩, by decide, rfl, rfl, by decide, ⟨⟨rfl, rfl, rfl⟩, rfl, rfl⟩, by decide⟩

theorem witness_QuiesceAndWakeActOnThePowerState_quiesce :
    Accepted .quiesce 0 (frame 2 []) running ∧ running.config.state = .run := ⟨⟨⟨rfl, rfl, rfl⟩, rfl, rfl⟩, rfl⟩

theorem witness_QuiesceAndWakeActOnThePowerState_wake :
    Ready .wake 0 (frame 2 []) running ∧ (running.hpu 0).port = .up ∧ running.refresh.power = .active ∧
      Ready .wake 0 (frame 2 []) (withRefresh { State.reset.refresh with power := .entering }) ∧
      Ready .wake 0 (frame 2 []) (withRefresh { State.reset.refresh with power := .retained }) ∧
      ((withRefresh { State.reset.refresh with power := .retained }).hpu 0).port = .up :=
  ⟨⟨rfl, rfl, rfl⟩, rfl, rfl, ⟨rfl, rfl, rfl⟩, ⟨rfl, rfl, rfl⟩, rfl⟩

theorem witness_RegionTableIsReadAndWritten :
    Accepted .readRegion 0 (frame 2 [15]) running ∧ running.table.entries[bitsOf ((frame 2 [15]).word 1) 0 8]? = some RegionEntry.reset ∧
      Accepted .readRegion 0 (frame 2 [16]) running ∧ bitsOf ((frame 2 [16]).word 1) 0 8 = 16 ∧
      inSetup.config.state = .setup ∧ Accepted .writeRegion 0 (frame 2 [15, 0, 65536, 0]) inSetup ∧
      bitsOf ((frame 2 [15, 0, 65536, 0]).word 1) 0 8 < 16 ∧ (frame 2 [15, 0, 65536, 0]).regionFields.isSome = true ∧
      Accepted .writeSettings 0 (frame 2 [12]) inSetup ∧ (frame 2 [12]).settingsFields.isSome = true := by
  exact ⟨⟨⟨rfl, rfl, rfl⟩, rfl, rfl⟩, by decide, ⟨⟨rfl, rfl, rfl⟩, rfl, rfl⟩, by decide, rfl, ⟨⟨rfl, rfl, rfl⟩, rfl, rfl⟩,
    by decide, by decide, ⟨⟨rfl, rfl, rfl⟩, rfl, rfl⟩, by decide⟩

theorem witness_InitCellsIssuesItsFirstGroupWrite :
    Accepted .initCells 0 (frame 2 [5, 65531, 0, 0]) inSetup ∧ inSetup.config.state = .setup ∧
      (frame 2 [5, 65531, 0, 0]).initFields = some { base := 5, count := 65531, value := 0, recovery := none } ∧
      inSetup.refresh.hold = false ∧ inSetup.bank (bankOf 5) = { state := .idle, current := none, queue := [] } ∧
      (readyAt 0 inSetup).bank (bankOf 5) = { state := .ready 0, current := none, queue := [] } ∧
      ((performing (hostAccess .groupRead) inSetup).bank (bankOf 5)).current ≠ none ∧
      ((bankIn (.closing 1) none inSetup).bank (bankOf 5)).state = .closing 1 := by
  exact ⟨⟨⟨rfl, rfl, rfl⟩, rfl, rfl⟩, rfl, by decide, rfl, rfl, rfl, by decide, rfl⟩

theorem witness_CommitIsHeldOrDecides_held :
    Accepted .commit 0 (frame 2 [0]) inSetup ∧ inSetup.config.state = .setup ∧
      BitVec.ofNat 16 (bitsOf ((frame 2 [0]).word 1) 0 16) ≠ inSetup.table.generation ∧
      Accepted .commit 0 (frame 2 [1]) inSetup ∧
      BitVec.ofNat 16 (bitsOf ((frame 2 [1]).word 1) 0 16) = inSetup.table.generation ∧
      (1 : Port) ≠ 0 ∧ (inSetup.hpu 1).port = .up ∧ inSetup.config.commits.get 1 ≠ some inSetup.table.generation := by
  exact ⟨⟨⟨rfl, rfl, rfl⟩, rfl, rfl⟩, rfl, by decide, ⟨⟨rfl, rfl, rfl⟩, rfl, rfl⟩, by decide, by decide, rfl, by decide⟩

/-- In SETUP, port 1 has committed to generation 1; a table and INIT_CELLS in flight. -/
def oneCommitted (entries : List RegionEntry) (inits : List InitFlight) : State :=
  { inConfig { State.reset.config with
      commits := (Four.all none).set 1 (some 1), heldCommits := [(1, 3)], inits := inits } with table := tableOf entries }

/-- An INIT_CELLS of port 0 in flight. -/
def flight : InitFlight :=
  { port := 0, tag := 2, init := { base := 5, count := 20, value := 8, recovery := none }, nextGroup := 0 }

theorem witness_CommitIsHeldOrDecides_decides :
    Accepted .commit 0 (frame 2 [1]) (oneCommitted [whole] []) ∧ (oneCommitted [whole] []).config.state = .setup ∧
      BitVec.ofNat 16 (bitsOf ((frame 2 [1]).word 1) 0 16) = (oneCommitted [whole] []).table.generation ∧
      (∀ q, q ≠ 0 → ((oneCommitted [whole] []).hpu q).port = .up →
        (oneCommitted [whole] []).config.commits.get q = some (oneCommitted [whole] []).table.generation) ∧
      (∀ x ∈ (oneCommitted [whole] []).config.heldCommits, x.1 ≠ 0) ∧ (tableOf [whole]).overlapPair = none ∧
      (tableOf [whole, readOnly]).overlapPair = some (0, 1) ∧
      Accepted .commit 0 (frame 2 [1]) (oneCommitted [whole, readOnly] []) ∧
      Accepted .commit 0 (frame 2 [1]) (oneCommitted [whole] [flight]) := by
  exact ⟨⟨⟨rfl, rfl, rfl⟩, rfl, rfl⟩, rfl, by decide, by decide, by decide, by decide, by decide,
    ⟨⟨rfl, rfl, rfl⟩, rfl, rfl⟩, ⟨⟨rfl, rfl, rfl⟩, rfl, rfl⟩⟩

theorem witness_OverlapNamesTheLowestEntries : ∀ e ∈ (tableOf [whole, readOnly]).entries, 1 ≤ e.length := by decide

/-- Port 1 has voted for a reopen. -/
def oneReopen : State :=
  inConfig { running.config with reopenVotes := (Four.all false).set 1 true, heldReopens := [(1, 3)] }

theorem witness_ReopenAndStayActOnTheVote_reopen :
    Accepted .reopen 0 (frame 2 []) running ∧ running.config.state = .run ∧ (running.hpu 1).port = .up ∧
      running.config.reopenVotes.get 1 = false ∧
      Accepted .reopen 0 (frame 2 []) (inConfig { running.config with state := .draining }) ∧
      Accepted .reopen 0 (frame 2 []) oneReopen ∧ oneReopen.config.state = .run ∧
      (∀ q, q ≠ 0 → (oneReopen.hpu q).port = .up → oneReopen.config.reopenVotes.get q = true) ∧
      (∀ x ∈ oneReopen.config.heldReopens, x.1 ≠ 0) ∧
      (∀ b, ∀ a ∈ (oneReopen.bank b).queue ++ (oneReopen.bank b).current.toList, a.isHost = false) ∧
      ∃ a ∈ ((performing (hostAccess .groupRead) oneReopen).bank 0).queue ++
        ((performing (hostAccess .groupRead) oneReopen).bank 0).current.toList, a.isHost = true := by
  exact ⟨⟨⟨rfl, rfl, rfl⟩, rfl, rfl⟩, rfl, rfl, rfl, ⟨⟨rfl, rfl, rfl⟩, rfl, rfl⟩, ⟨⟨rfl, rfl, rfl⟩, rfl, rfl⟩, rfl,
    by decide, by decide, by decide, by decide⟩

theorem witness_ReopenAndStayActOnTheVote_stay :
    Accepted .stay 1 (frame 2 []) oneReopen ∧ oneReopen.config.state = .run ∧ oneReopen.config.reopenVotes.get 1 = true ∧
      Accepted .stay 0 (frame 2 []) oneReopen ∧ oneReopen.config.reopenVotes.get 0 = false :=
  ⟨⟨⟨rfl, rfl, rfl⟩, rfl, rfl⟩, rfl, rfl, ⟨⟨rfl, rfl, rfl⟩, rfl, rfl⟩, rfl⟩

/-- In COMMITTING, port 1's COMMIT held. -/
def committing (inits : List InitFlight) : State :=
  inConfig { (oneCommitted [whole] inits).config with state := .committing }

/-- In DRAINING, an operation parked. -/
def draining : State := { inConfig { oneReopen.config with state := .draining } with park := [waiting] }

theorem witness_ConfigurationStepsEnd :
    (committing []).resetHigh = true ∧ (committing []).config.state = .committing ∧ (committing []).config.inits = [] ∧
      (committing [flight]).config.inits ≠ [] ∧ draining.resetHigh = true ∧ draining.config.state = .draining ∧
      (∀ b, ∀ a ∈ (draining.bank b).queue ++ (draining.bank b).current.toList, a.isHost = false) ∧
      (∃ a ∈ ((performing (hostAccess .groupRead) draining).bank 0).queue ++
        ((performing (hostAccess .groupRead) draining).bank 0).current.toList, a.isHost = true) ∧
      running.config.state ≠ .committing ∧ running.config.state ≠ .draining := by decide

/-- Port 0 in CLEARING with a JOIN held. -/
def joinHeld : State := { running with hpus := running.hpus.set 0 { clearingPort with heldJoin := some 5 } }

theorem witness_JoinActsByThePortState :
    Ready .join 2 (frame 2 []) running ∧ running.refresh.power = .active ∧
      ((running.admitted false 2 (frame 2 [])).hpu 2).port = .linked ∧ Ready .join 0 (frame 2 []) running ∧
      ((running.admitted false 0 (frame 2 [])).hpu 0).port = .up ∧
      Ready .join 0 (frame 2 []) { running with hpus := Four.all clearingPort } ∧ clearingPort.heldJoin = none ∧
      Ready .join 0 (frame 2 []) joinHeld ∧ ((joinHeld.admitted false 0 (frame 2 [])).hpu 0).port = .clearing ∧
      (joinHeld.hpu 0).heldJoin = some 5 :=
  ⟨⟨rfl, rfl, rfl⟩, rfl, rfl, ⟨rfl, rfl, rfl⟩, rfl, ⟨rfl, rfl, rfl⟩, rfl, ⟨rfl, rfl, rfl⟩, rfl, rfl⟩

/-- An access to another row of bank 0. -/
def farAccess (bypass : Nat) : Access := { hostAccess .groupRead with cell := 64, bypass := bypass }

theorem witness_DepartureStartsTeardown :
    parked.resetHigh = true ∧ (parked.hpu 1).port = .up ∧ (parked.hpu 1).heldJoin = none ∧
      Accepted .leave 1 (frame 2 []) parked ∧ (parked.hpu 1).link = .alive ∧ (parked.hpu 0).port = .up ∧
      (parked.eventPort 0).queue.length < 16 ∧ ∀ e ∈ parked.park, parked.NotInChange e := by
  refine ⟨rfl, rfl, rfl, ⟨⟨rfl, rfl, rfl⟩, rfl, rfl⟩, rfl, rfl, by decide, fun e he => ?_⟩
  rw [List.mem_singleton.1 he]
  exact parked_notInChange

/-- The same while bank 0 performs a GROUP_READ of the entry's cell. -/
theorem witness_DepartureStartsTeardown_reading :
    Accepted .leave 1 (frame 2 []) (performing (hostAccess .groupRead) parked) ∧
      ((performing (hostAccess .groupRead) parked).bank 0).current ≠ none ∧
      (∀ q, q ≠ 1 → (performing (hostAccess .groupRead) parked).teardown.get q = none) ∧
      ∀ e ∈ (performing (hostAccess .groupRead) parked).park,
        (performing (hostAccess .groupRead) parked).NotInChange e := by
  refine ⟨⟨⟨rfl, rfl, rfl⟩, rfl, rfl⟩, by decide, by decide, fun e he => ?_⟩
  rw [List.mem_singleton.1 he]
  exact reading_notInChange

/-- With no current access in any bank, no quorum of the ports that remain, and no refresh owed. -/
theorem witness_DepartureStartsTeardown_walks :
    let d := State.clearPort 1 .link (parked.modHpu 1 Hpu.loseLink)
    (∀ b, (parked.bank b).current = none) ∧ (∀ q, q ≠ 1 → parked.teardown.get q = none) ∧ Decides d d ∧ ¬d.Opportunity :=
  ⟨by decide, by decide, .waits (.inr ⟨rfl, fun h => absurd (h.2 0 rfl) (by decide)⟩), fun h => absurd h.2.1 (by decide)⟩

/-- Port 0 has committed, and with port 1's departure its record alone is the quorum. -/
theorem witness_DepartureStartsTeardown_quorum :
    let s := inConfig { State.reset.config with commits := (Four.all none).set 0 (some 1), heldCommits := [(0, 3)] }
    let d := State.clearPort 1 .link (s.modHpu 1 Hpu.loseLink)
    (s.hpu 1).port = .up ∧ s.park = [] ∧
      d.Agreed (fun p => d.config.commits.get p = some d.table.generation) ∧ d.table.overlapPair = none :=
  ⟨rfl, rfl, ⟨⟨0, rfl⟩, by decide⟩, by decide⟩

/-- Ports 0 and 1 have voted. -/
def agreed (r : RefreshCtl) : State := withRefresh { r with votes := ⟨true, true, false, false⟩ }

theorem agreed_meets (r : RefreshCtl) (h : r.power = .active) : RetentionAgreed (agreed r) :=
  ⟨rfl, h, ⟨0, rfl⟩, (by decide : ∀ p, (running.hpu p).port = .up → (⟨true, true, false, false⟩ : Four Bool).get p = true),
    rfl, (by decide : ∀ p tag, running.tagState p tag = .free), (by decide : ∀ p, (running.hpu p).port ≠ .clearing)⟩

/-- Port 0 with a response to send. -/
def responding (s : State) : State :=
  { s with
    hpus := s.hpus.set 0
      { upPort with
        tags := (Eight.all .free).set 2 .outstanding, sendList := [{ kind := 0x95, tag := 2, body := .ok }] } }

/-- Port 2 in LINKED. -/
def oneLinked (s : State) : State := { s with hpus := s.hpus.set 2 linkedPort }

theorem witness_LinkLossAndSending :
    joinHeld.resetHigh = true ∧ (joinHeld.hpu 0).link = .alive ∧ (joinHeld.hpu 0).port = .clearing ∧
      ((oneLinked running).hpu 2).link = .alive ∧ ((oneLinked running).hpu 2).port = .linked ∧
      ((oneLinked (agreed running.refresh)).hpu 2).port = .linked ∧
      (oneLinked (agreed running.refresh)).config.state = .run ∧ ((responding running).hpu 0).link = .alive ∧
      ((responding running).hpu 0).sendList = { kind := 0x95, tag := 2, body := .ok } :: [] ∧
      running.refresh.votes.get 0 = false := by decide

/-- The response sent is the last thing the retention decision waited for. -/
theorem witness_LinkLossAndSending_decides :
    RetentionAgreed
        { responding (agreed running.refresh) with
          hpus := (responding (agreed running.refresh)).hpus.set 0 { upPort with lastSent := some [] } } ∧
      ¬RetentionAgreed running :=
  ⟨⟨rfl, rfl, ⟨0, rfl⟩, by decide, rfl, by decide, by decide⟩, fun h => absurd (h.voted 0 rfl) (by decide)⟩

theorem witness_BanksPickByTheRule :
    running.resetHigh = true ∧ running.refresh.hold = false ∧ ((readyAt 0 running).bank 0).current = none ∧
      ((readyAt 0 running).bank 0).state = .ready 0 ∧ (∀ a ∈ [farAccess 3], a.cell / 64 ≠ 0) ∧
      (hostAccess .groupRead).cell / 64 = 0 ∧
      (([farAccess 3] ++ [hostAccess .groupRead]).head?.map (·.bypass)).getD 0 < 4 ∧ 4 ≤ (farAccess 4).bypass ∧
      (running.bank 0).state = .idle ∧ (withRefresh { running.refresh with hold := true }).refresh.hold = true := by decide

theorem witness_RowStepsEnd :
    running.resetHigh = true ∧
      ((bankIn (.closing 1) (some (hostAccess .groupRead)) running).bank 0).state = .closing 1 ∧
      ((bankIn (.closing 1) none running).bank 0).current = none ∧ running.refresh.hold = false ∧
      (withRefresh { running.refresh with hold := true }).refresh.refreshing = false ∧
      (withRefresh { running.refresh with hold := true }).refresh.power = .active ∧
      (withRefresh { running.refresh with hold := true, power := .entering }).refresh.placing = none ∧
      (∀ d, d ≠ 0 → ((bankIn (.closing 1) none running).bank d).state = .idle ∧
        ((bankIn (.closing 1) none running).bank d).current = none) ∧
      (¬∀ d, d ≠ 0 → ((bankIn (.closing 1) none (performing { hostAccess .groupRead with cell := 16 } running)).bank
        d).state = .idle) ∧
      ((bankIn (.opening 0) (some (hostAccess .groupRead)) running).bank 0).state = .opening 0 := by decide

/-- A host access of port 0 to cell 5 is performed, the cell LIVE. -/
def onLive (w : Work) : State := performing (hostAccess w) (withCell 3 none (some 4) running)

/-- The same, the cell VOID. -/
def onVoid (w : Work) : State := performing (hostAccess w) running

theorem hostAccess_bank (w : Work) : bankOf (hostAccess w).cell = 0 := (by decide : bankOf 5 = 0)

theorem performing_performs (w : Work) (s : State) (h : s.resetHigh = true) :
    Performing 0 (hostAccess w) (performing (hostAccess w) s) := by
  have hb : (performing (hostAccess w) s).bank 0 =
      { state := .accessing (hostAccess w).row, current := some (hostAccess w), queue := [] } := by
    rw [← hostAccess_bank w]
    exact Four.get_set_same _ _ _
  exact ⟨h, by rw [hb], by rw [hb]⟩

theorem onLive_performs (w : Work) : Performing 0 (hostAccess w) (onLive w) := performing_performs w _ (by rfl)

theorem onVoid_performs (w : Work) : Performing 0 (hostAccess w) (onVoid w) := performing_performs w _ (by rfl)

/-- Bank 0 performing a GROUP_READ of a port, with accesses waiting. -/
def atEnd (p : Port) (waits : List Access) (s : State) : State :=
  { s with
    banks := s.banks.set 0 { state := .accessing 0, current := some { hostAccess .groupRead with port := p }, queue := waits } }

/-- The same table under page policy CLOSE. -/
def closedPage : RegionTable := { tableOf [whole] with settings := { Settings.reset with page := .closed } }

theorem witness_BankGoesOnAfterAnAccess :
    ((atEnd 0 [] running).bank 0).state = .accessing 0 ∧ (withRefresh { running.refresh with hold := true }).refresh.hold = true ∧
      (atEnd 0 [] running).refresh.hold = false ∧ ((atEnd 0 [] running).bank 0).queue = [] ∧
      closedPage.settings.page = .closed ∧ running.table.settings.page = .opened ∧
      ((atEnd 0 [farAccess 0] running).bank 0).queue ≠ [] ∧ (atEnd 0 [farAccess 0] running).resetHigh = true := by decide

/-- The state of WhatFollowsTheEndOfAnAccess after bank 0's access has ended. -/
def endedAt0 (s : State) : State :=
  { s.endAtBank 0 with
    teardown := s.teardown.map (fun x => x.map (fun r => { r with awaited := r.awaited.set 0 false })) }

/-- The record of a port whose walk awaits bank 0 alone. -/
def awaiting0 : TeardownRec :=
  { reason := .link, phase := .awaiting, awaited := (Four.all false).set 0 true, passed := [], current := none,
    restored := 0, released := 0, held := 0 }

/-- Port 2 in CLEARING, its access the last one awaited. -/
def lostMidAccess (s : State) : State :=
  { s with hpus := s.hpus.set 2 clearingPort, teardown := (Four.all none).set 2 (some awaiting0) }

theorem witness_WhatFollowsTheEndOfAnAccess :
    (atEnd 0 [] running).resetHigh = true ∧ ((atEnd 0 [] running).bank 0).state = .accessing 0 ∧
      ((atEnd 0 [] running).hpu 0).port = .up ∧ (atEnd 0 [] running).config.state = .run ∧
      (atEnd 0 [] running).config.reopenVotes.get 0 = false ∧
      (∀ p, (endedAt0 (atEnd 0 [] running)).teardown.get p = none) ∧ running.refresh.debt = 0 ∧
      (withRefresh { running.refresh with debt := 1 }).refresh.power = .active ∧
      (withRefresh { running.refresh with debt := 1 }).refresh.hold = false ∧
      (∀ d, ((endedAt0 (atEnd 0 [] (withRefresh { running.refresh with debt := 1 }))).bank d).queue = [] ∧
        ((endedAt0 (atEnd 0 [] (withRefresh { running.refresh with debt := 1 }))).bank d).current = none) ∧
      (atEnd 0 [] (committing [])).config.state = .committing ∧ (atEnd 0 [] (committing [])).config.inits = [] ∧
      (atEnd 0 [] draining).config.state = .draining ∧
      ∀ d, ∀ a ∈ ((endedAt0 (atEnd 0 [] draining)).bank d).queue ++
        ((endedAt0 (atEnd 0 [] draining)).bank d).current.toList, a.isHost = false := by decide

theorem witness_WhatFollowsTheEndOfAnAccess_walk :
    ((atEnd 2 [] (lostMidAccess running)).bank 0).state = .accessing 0 ∧
      (endedAt0 (atEnd 2 [] (lostMidAccess running))).teardown.get 2 =
        some { awaiting0 with awaited := Four.all false } ∧
      (∀ q, q ≠ 2 → (endedAt0 (atEnd 2 [] (lostMidAccess running))).teardown.get q = none) ∧
      ((atEnd 2 [] (lostMidAccess running)).hpu 2).port = .clearing ∧
      (atEnd 2 [] (lostMidAccess (withRefresh { running.refresh with debt := 1 }))).refresh.debt = 1 := by decide

/-- The requester of the access at bank 0, port 0, has left UP since; its teardown awaits the bank. -/
def departed (s : State) : State :=
  { s with hpus := s.hpus.set 0 clearingPort, teardown := (Four.all none).set 0 (some awaiting0) }

theorem performing_departed (w : Work) (s : State) (h : s.resetHigh = true) :
    Performing 0 (hostAccess w) (departed (performing (hostAccess w) s)) :=
  ⟨h, (performing_performs w s h).onRow, (performing_performs w s h).current⟩

theorem witness_OperateExecutes :
    Performing 0 (hostAccess (.operate lockOp)) (performing (hostAccess (.operate lockOp)) (withCell 0 none none running)) ∧
      (withCell 0 none none running).readCell 5 = .live 0 none none ∧ running.teardown.get 0 = none ∧ running.park = [] ∧
      running.watches = [] ∧ predHolds lockOp.pred (compareFlags 0 lockOp.cmp) = true ∧
      ownHolds lockOp.own 0 none = true ∧ ¬(64 ≤ (running.stamps.get 0).length) ∧ (running.hpu 0).port = .up ∧
      (running.hpu 0).link = .alive :=
  ⟨performing_performs _ _ rfl, by decide⟩

theorem witness_OperateExecutes_departed :
    Performing 0 (hostAccess (.operate lockOp))
        (departed (performing (hostAccess (.operate lockOp)) (withCell 0 none none running))) ∧
      ((departed running).hpu 0).port ≠ .up ∧ (departed running).teardown.get 0 = some awaiting0 ∧ awaiting0.passed = [] :=
  ⟨performing_departed _ _ rfl, by decide⟩

/-- An OPERATE that leaves its cell as it is, with an entry parked on it. -/
theorem witness_OperateExecutes_unchanged :
    Performing 0 (hostAccess (.operate { addOne with arg := 0 }))
        (performing (hostAccess (.operate { addOne with arg := 0 }))
          { withCell 0 (some 0) none running with park := [waiting] }) ∧
      applyUpdate .add 0 0 = 0 ∧ addOne.stamp = .keep :=
  ⟨performing_performs _ _ rfl, by decide⟩

/-- A list of 64 cells. -/
def fullStamps : List CellIx := (List.range 64).map (fun k => 100 + k)

/-- A creating OPERATE. -/
def createOp : OpFields := { pred := .always, cmp := 0, own := .any, upd := .set, arg := 9, stamp := .stamp, patience := 0 }

/-- Port 0 owns 64 cells. -/
def stampsFull (s : State) : State := { s with stamps := s.stamps.set 0 fullStamps }

theorem witness_OperateWithoutEffectOnItsCell_void :
    Performing 0 (hostAccess (.operate addOne)) (onVoid (.operate addOne)) ∧
      (onVoid (.operate addOne)).readCell 5 = .void ∧ addOne.upd ≠ .set ∧ (running.hpu 0).port = .up ∧
      (running.hpu 0).link = .alive := ⟨onVoid_performs _, by decide⟩

theorem witness_OperateWithoutEffectOnItsCell_createFull :
    Performing 0 (hostAccess (.operate createOp)) (performing (hostAccess (.operate createOp)) (stampsFull running)) ∧
      (stampsFull running).readCell 5 = .void ∧ createOp.stamp = .stamp ∧ 64 ≤ ((stampsFull running).stamps.get 0).length :=
  ⟨performing_performs _ _ rfl, by decide⟩

theorem witness_OperateWithoutEffectOnItsCell_stampFull :
    Performing 0 (hostAccess (.operate lockOp))
        (performing (hostAccess (.operate lockOp)) (stampsFull (withCell 0 none none running))) ∧
      (stampsFull (withCell 0 none none running)).readCell 5 = .live 0 none none ∧ guardHolds lockOp 0 0 none = true ∧
      lockOp.stamp = .stamp ∧ 64 ≤ ((stampsFull (withCell 0 none none running)).stamps.get 0).length :=
  ⟨performing_performs _ _ rfl, by decide⟩

theorem witness_OperateWithoutEffectOnItsCell_false :
    Performing 0 (hostAccess (.operate lockOp)) (onLive (.operate lockOp)) ∧
      (onLive (.operate lockOp)).readCell 5 = .live 3 none (some 4) ∧ guardHolds lockOp 0 3 none = false ∧
      lockOp.patience = 0 := ⟨onLive_performs _, by decide⟩

theorem witness_OperateWithoutEffectOnItsCell_parks (n : Nat) :
    Performing 0 (hostAccess (.operate (takeOne 65535)))
        (performing (hostAccess (.operate (takeOne 65535)))
          { withCell 0 none none running with park := List.replicate n waiting }) ∧
      (withCell 0 none none running).readCell 5 = .live 0 none none ∧ guardHolds (takeOne 65535) 0 0 none = false ∧
      (takeOne 65535).patience ≠ 0 ∧ (List.replicate 23 waiting).length < 24 ∧ 24 ≤ (List.replicate 24 waiting).length :=
  ⟨performing_performs _ _ rfl, by decide⟩

theorem witness_OperateWithoutEffectOnItsCell_departed :
    Performing 0 (hostAccess (.operate (takeOne 3)))
        (departed (performing (hostAccess (.operate (takeOne 3))) (withCell 0 none none running))) ∧
      (withCell 0 none none running).readCell 5 = .live 0 none none ∧ guardHolds (takeOne 3) 0 0 none = false ∧
      (takeOne 3).patience ≠ 0 ∧ ((departed running).hpu 0).port ≠ .up :=
  ⟨performing_departed _ _ rfl, by decide⟩

theorem witness_CreatingOperateMakesTheCellLive :
    Performing 0 (hostAccess (.operate createOp)) (onVoid (.operate createOp)) ∧
      (onVoid (.operate createOp)).readCell 5 = .void ∧ (onVoid (.operate createOp)).park = [] ∧
      (onVoid (.operate createOp)).watches = [] ∧ createOp.pred = .always ∧ createOp.own = .any ∧ createOp.upd = .set ∧
      createOp.stamp = .stamp ∧ ((onVoid (.operate createOp)).stamps.get 0).length < 64 ∧ (running.hpu 0).port = .up ∧
      (running.hpu 0).link = .alive ∧ ((departed running).hpu 0).port ≠ .up :=
  ⟨onVoid_performs _, by decide⟩

/-- Port 0's OPERATE is performed on a cell with an entry of port 1 parked and a watch of port 0. -/
def chained (op : OpFields) (s : State) : State :=
  performing (hostAccess (.operate op)) { s with park := [waiting], watches := [watching] }

theorem witness_ChangedCellsRunTheirCascade :
    Performing 0 (hostAccess (.operate addOne)) (chained addOne (withCell 0 none none running)) ∧
      ∃ u made, Opens (hostAccess (.operate addOne)) (chained addOne (withCell 0 none none running)) u made :=
  ⟨performing_performs _ _ rfl, _, _,
    .executes (op := addOne) (tag := 2) (v := 0) (o := none) (r := none) rfl rfl (by decide) (by decide) (by decide) rfl
      (by decide)⟩

theorem witness_ChangedCellsRunTheirCascade_creating :
    Performing 0 (hostAccess (.operate createOp)) (chained createOp running) ∧
      ∃ u made, Opens (hostAccess (.operate createOp)) (chained createOp running) u made :=
  ⟨performing_performs _ _ rfl, _, _,
    .creates (op := createOp) (tag := 2) (owner := some 0) rfl rfl (by decide) rfl rfl rfl (by decide)⟩

/-- The cell of the access as the addition leaves it. -/
theorem witness_ChangedCellsRunTheirCascade_cell :
    ({ withCell 1 none none running with park := [waiting] } : State).readCell 5 = .live 1 none none := by decide

/-- Port 1 cancels, leaves or is lost while its entry is parked on the cell that port 0's OPERATE raises. -/
theorem witness_ClaimsFallInsideAnAccess :
    let s := chained addOne (withCell 0 none none running)
    Performing 0 (hostAccess (.operate addOne)) s ∧ s.readCell 5 = .live 0 none none ∧ guardHolds addOne 0 0 none = true ∧
      applyUpdate addOne.upd 0 addOne.arg ≠ 0 ∧ addOne.stamp = .keep ∧ (∀ d, d ≠ 0 → s.accessing d = none) ∧
      Accepted .cancel 1 (frame 2 [4]) s ∧ s.park = [waiting] ∧ waiting.port = 1 ∧
      waiting.tag = (frame 2 [4]).targetTag ∧ waiting.cell = 5 ∧ (s.hpu 1).port = .up ∧ Accepted .leave 1 (frame 2 []) s ∧
      (s.hpu 1).link = .alive :=
  ⟨performing_performs _ _ rfl, by decide, by decide, by decide, by decide, by decide, ⟨⟨rfl, rfl, rfl⟩, rfl, rfl⟩, rfl,
    rfl, by decide, rfl, rfl, ⟨⟨rfl, rfl, rfl⟩, rfl, rfl⟩, rfl⟩

theorem witness_CascadeReleasesWhatItCan :
    ({ withCell 1 none none running with park := [waiting, { waiting with tag := 5 }] } : State).park.Pairwise
      (fun x y => ¬(x.port = y.port ∧ x.tag = y.tag)) := by decide

theorem witness_CellAddressing : 65535 < 65536 ∧ 1023 ≤ 1023 ∧ 15 < 16 := by decide

theorem witness_GroupReadReportsTheGroup :
    Performing 0 (hostAccess (.groupRead)) (onLive (.groupRead)) ∧
      (onLive .groupRead).readCell 5 = .live 3 none (some 4) ∧ (onLive .groupRead).readCell 6 = .void ∧
      (onLive .groupRead).table.regionOf 5 = some whole ∧ whole.rights.get 0 ≠ .none ∧
      ({ onLive .groupRead with table := tableOf [] } : State).table.regionOf 5 = none ∧
      (running.hpu 0).port = .up ∧ (running.hpu 0).link = .alive ∧
      Performing 0 (hostAccess .groupRead) (departed (onLive .groupRead)) ∧ ((departed running).hpu 0).port ≠ .up :=
  ⟨onLive_performs _, by decide, by decide, by decide, by decide, by decide, by decide, by decide,
    performing_departed _ _ rfl, by decide⟩

theorem witness_SetRecoveryReplacesTheRecoveryValue :
    Performing 0 (hostAccess (.setRecovery none)) (onLive (.setRecovery none)) ∧
      (onLive (.setRecovery none)).readCell 5 = .live 3 none (some 4) ∧ (onVoid (.setRecovery none)).readCell 5 = .void ∧
      ({ onVoid (.setRecovery none) with cells := { background := Four.all .lost, listed := [] } } : State).readCell 5 =
        .lost ∧ (running.hpu 0).port = .up ∧ (running.hpu 0).link = .alive :=
  ⟨onLive_performs _, by decide⟩

/-- A WATCH with report-now. -/
def watchFields (mode : WatchMode) : WatchFields := { trigger := .pred .uge 3, mode := mode, reportNow := true }

theorem witness_WatchIsCreated :
    Performing 0 (hostAccess (.watch (watchFields .once))) (onLive (.watch (watchFields .once))) ∧
      (onLive (.watch (watchFields .once))).TablesOk ∧
      (onLive (.watch (watchFields .once))).readCell 5 = .live 3 none (some 4) ∧
      (onVoid (.watch (watchFields .once))).readCell 5 = .void ∧
      (onLive (.watch (watchFields .once))).watches.length < 32 ∧ (List.replicate 12 watching).length = 12 ∧
      predHolds .uge (compareFlags 3 3) = true ∧ (running.hpu 0).port = .up ∧ (running.hpu 0).link = .alive := by
  refine ⟨onLive_performs _, ⟨by decide, by decide, by decide, ⟨List.Pairwise.nil, by decide⟩, by decide, by decide, by decide⟩, ?_⟩
  decide

theorem witness_WatchIsCreated_departed :
    Performing 0 (hostAccess (.watch (watchFields .once))) (departed (onLive (.watch (watchFields .once)))) ∧
      (departed (onLive (.watch (watchFields .once)))).TablesOk ∧
      (departed (onLive (.watch (watchFields .once)))).readCell 5 = .live 3 none (some 4) ∧
      ((departed (onLive (.watch (watchFields .once)))).hpu 0).port ≠ .up :=
  ⟨performing_departed _ _ rfl,
    ⟨by decide, by decide, by decide, ⟨List.Pairwise.nil, by decide⟩, by decide, by decide, by decide⟩, by decide⟩

theorem witness_WatchesAreEvaluatedOnce :
    ({ withCell 0 none none running with watches := [{ watching with id := 0 }, watching] } : State).readCell 5 =
        .live 0 none none ∧
      [{ watching with id := 0 }, watching].Pairwise (fun x y => x.id < y.id) := by decide

/-- A group write of port 0 is performed. -/
def writing (next : CellIx) (i : InitFields) : State :=
  performing (hostAccess (.groupWrite i))
    (inConfig { State.reset.config with inits := [{ port := 0, tag := 2, init := i, nextGroup := next }] })

theorem writing_stamps (next : CellIx) (i : InitFields) : (writing next i).StampsOk := by
  have hv : ∀ c, (writing next i).readCell c = .void := fun c => reset_readCell c
  have hn : ∀ p, (writing next i).stamps.get p = [] := fun p => Four.get_all _ p
  refine ⟨fun p c => ?_, fun p => ?_, fun p => ?_⟩
  · rw [hn, hv]
    simp [CellRec.owner]
  · rw [hn]
    exact List.nodup_nil
  · rw [hn]
    decide

theorem witness_GroupWriteWritesTheCoveredCells (i : InitFields) :
    Performing 0 (hostAccess (.groupWrite i)) (writing 0 i) ∧
      (writing 0 i).config.inits = [] ++ { port := 0, tag := 2, init := i, nextGroup := 0 } :: [] ∧
      (writing 0 i).StampsOk :=
  ⟨performing_performs (.groupWrite i) _ (by rfl), rfl, writing_stamps 0 i⟩

/-- The same with port 0 lost since, its teardown awaiting the bank, in COMMITTING. -/
def writingLost (i : InitFields) : State :=
  { writing 0 i with
    hpus := (writing 0 i).hpus.set 0 clearingPort
    teardown := (Four.all none).set 0 (some awaiting0)
    config := { (writing 0 i).config with state := .committing } }

theorem witness_GroupWriteWritesTheCoveredCells_lost (i : InitFields) :
    Performing 0 (hostAccess (.groupWrite i)) (writingLost i) ∧
      (writingLost i).config.inits = [] ++ { port := 0, tag := 2, init := i, nextGroup := 0 } :: [] ∧
      (writingLost i).StampsOk ∧ ((writingLost i).hpu 0).port ≠ .up ∧ (writingLost i).config.state = .committing :=
  ⟨⟨rfl, (performing_performs (.groupWrite i) _ (by rfl)).onRow, (performing_performs (.groupWrite i) _ (by rfl)).current⟩,
    rfl, ⟨(writing_stamps 0 i).owners, (writing_stamps 0 i).once, (writing_stamps 0 i).bound⟩,
    (by decide : clearingPort.port ≠ .up), rfl⟩

theorem witness_GroupWriteWritesTheCoveredCells_ends :
    flight.init.base + 11 ≤ 0 + 16 ∧ 0 + 16 < flight.init.base + flight.init.count ∧ (running.hpu 0).port = .up ∧
      (running.hpu 0).link = .alive := by decide

/-- The record of port 2's walk at its recovery access on cell 5. -/
def recovering : TeardownRec :=
  { reason := .link, phase := .recovering, awaited := Four.all false, passed := [], current := some 5, restored := 0,
    released := 0, held := 0 }

/-- The recovery access on cell 5, owned by a port, one more cell in port 2's list. -/
def recovery (owner : Option Port) (list : List CellIx) : State :=
  performing { port := 2, tag := none, cell := 5, work := .recovery .restore (some 7), bypass := 0 }
    { withCell 3 owner (some 4) running with
      hpus := running.hpus.set 2 clearingPort
      stamps := (Four.all []).set 2 list
      teardown := (Four.all none).set 2 (some recovering) }

theorem witness_RecoveryAccessReleasesTheCell :
    Performing 0 { port := 2, tag := none, cell := 5, work := .recovery .restore (some 7), bypass := 0 }
        (recovery (some 2) [5, 9]) ∧
      (recovery (some 2) [5, 9]).readCell 5 = .live 3 (some 2) (some 4) ∧ (recovery (some 2) [5, 9]).park = [] ∧
      (recovery (some 2) [5, 9]).watches = [] ∧ ((recovery (some 1) [9]).readCell 5).owner ≠ some 2 ∧
      (some (7 : Word)) ≠ none :=
  ⟨⟨rfl, rfl, rfl⟩, by decide⟩

/-- The recovery access on cell 5 that is VOID or LOST by now. -/
def recoveryOf (r : CellRec) : State :=
  { recovery none [9] with cells := (recovery none [9]).cells.write 5 r }

theorem witness_RecoveryAccessReleasesTheCell_void :
    Performing 0 { port := 2, tag := none, cell := 5, work := .recovery .restore (some 7), bypass := 0 } (recoveryOf .lost) ∧
      (recoveryOf .lost).readCell 5 = .lost ∧ (recoveryOf .void).readCell 5 = .void ∧
      (CellRec.lost.owner = none ∧ CellRec.void.owner = none) ∧ (recoveryOf .lost).stamps.get 2 = [9] :=
  ⟨⟨rfl, rfl, rfl⟩, by decide⟩

/-- The same with port 1's entry and port 0's watch on the cell. -/
theorem witness_ChangedCellsRunTheirCascade_recovery :
    Performing 0 { port := 2, tag := none, cell := 5, work := .recovery .restore (some 7), bypass := 0 }
        { recovery (some 2) [5] with park := [waiting], watches := [watching] } ∧
      ∃ u made, Opens { port := 2, tag := none, cell := 5, work := .recovery .restore (some 7), bypass := 0 }
        { recovery (some 2) [5] with park := [waiting], watches := [watching] } u made :=
  ⟨⟨rfl, rfl, rfl⟩, _, _, .recovers (v := 3) (r := some 4) rfl (by decide)⟩

theorem witness_ClaimsFallInsideAnAccess_recovery :
    let s : State := { recovery (some 2) [5] with park := [waiting] }
    Performing 0 { port := 2, tag := none, cell := 5, work := .recovery .restore (some 7), bypass := 0 } s ∧
      s.readCell 5 = .live 3 (some 2) (some 4) ∧ Accepted .cancel 1 (frame 2 [4]) s ∧ Accepted .leave 1 (frame 2 []) s ∧
      (s.hpu 1).port = .up ∧ (s.hpu 1).link = .alive ∧ (∀ d, d ≠ 0 → s.accessing d = none) :=
  ⟨⟨rfl, rfl, rfl⟩, by decide, ⟨⟨rfl, rfl, rfl⟩, rfl, rfl⟩, ⟨⟨rfl, rfl, rfl⟩, rfl, rfl⟩, rfl, rfl, by decide⟩

/-- Port 2 in CLEARING before its walk, cells 3 of a HOLD region and 5 in its list. -/
def beforeWalk : State :=
  { performing { hostAccess .groupRead with port := 0 } running with
    hpus := running.hpus.set 2 clearingPort
    table := tableOf [{ whole with length := 4, policy := .hold }, { whole with base := 4, length := 60 }]
    stamps := (Four.all []).set 2 [3, 5]
    teardown := (Four.all none).set 2 (some { recovering with phase := .awaiting, current := none }) }

theorem witness_WalkTakesTheStampListInOrder :
    beforeWalk.resetHigh = true ∧
      beforeWalk.teardown.get 2 = some { recovering with phase := .awaiting, current := none } ∧
      (beforeWalk.stamps.get 2).filter (fun d => !recovering.passed.contains d) = [3] ++ 5 :: [] ∧
      beforeWalk.table.regionOf 3 = some { whole with length := 4, policy := .hold } ∧
      (beforeWalk.bank (bankOf 5)).current ≠ none ∧ (∀ b, recovering.awaited.get b = false) ∧
      beforeWalk.table.regionOf 5 = some { whole with base := 4, length := 60 } ∧
      beforeWalk.table.regionOf 64 = none := by decide

/-- The same in the midst of the walk, cell 3 passed, with one cell left and with none. -/
theorem witness_WalkTakesTheStampListInOrder_later :
    (beforeWalk.stamps.get 2).filter (fun d => !([3] : List CellIx).contains d) = [] ++ 5 :: [] ∧
      (([3] : List CellIx).filter (fun d => !([3] : List CellIx).contains d)) = [] ++ [] ∧
      recovering.phase ≠ .awaiting := by decide

/-- The same with the bank free, and with a bank still awaited. -/
theorem witness_WalkTakesTheStampListInOrder_free :
    ({ beforeWalk with banks := running.banks } : State).bank (bankOf 5) =
        { state := .idle, current := none, queue := [] } ∧
      (readyAt 1 beforeWalk).bank (bankOf 5) = { state := .ready 1, current := none, queue := [] } ∧
      beforeWalk.refresh.hold = false ∧ awaiting0.phase = .awaiting ∧ awaiting0.passed = [] ∧
      awaiting0.awaited.get 0 = true ∧
      ({ beforeWalk with stamps := (Four.all []).set 2 [3] } : State).stamps.get 2 = [3] ∧
      ({ beforeWalk with stamps := Four.all [] } : State).stamps.get 2 = [] := by decide

/-- Port 2's walk has ended, in SETUP with no commit record. -/
def walkEnded (h : Hpu) : State :=
  { inSetup with
    hpus := inSetup.hpus.set 2 h
    teardown := (Four.all none).set 2 (some { recovering with phase := .walking, current := none }) }

theorem witness_TeardownCompletes :
    (walkEnded clearingPort).resetHigh = true ∧
      (walkEnded clearingPort).teardown.get 2 = some { recovering with phase := .walking, current := none } ∧
      (walkEnded clearingPort).stamps.get 2 = [] ∧ (walkEnded clearingPort).config.state = .setup ∧
      ((walkEnded clearingPort).hpu 0).port = .up ∧ (walkEnded clearingPort).config.commits.get 0 = none ∧
      ((walkEnded clearingPort).hpu 2).heldJoin = none ∧
      ((walkEnded { clearingPort with heldJoin := some 5 }).hpu 2).heldJoin = some 5 ∧
      ((walkEnded { clearingPort with heldJoin := some 5 }).hpu 2).link = .alive := by decide

/-- The same in RUN and DRAINING. -/
def walkEndedIn (k : ConfigCtl) : State := { walkEnded clearingPort with config := k }

theorem witness_TeardownCompletes_run :
    (walkEndedIn running.config).config.state = .run ∧ ((walkEndedIn running.config).hpu 0).port = .up ∧
      (walkEndedIn running.config).config.reopenVotes.get 0 = false ∧
      (walkEndedIn running.config).teardown.get 2 = some { recovering with phase := .walking, current := none } ∧
      (walkEndedIn draining.config).config.state = .draining ∧
      (∃ a ∈ ((performing (hostAccess .groupRead) (walkEndedIn draining.config)).bank 0).queue ++
        ((performing (hostAccess .groupRead) (walkEndedIn draining.config)).bank 0).current.toList, a.isHost = true) ∧
      (committing [flight]).config.inits ≠ [] := by decide

theorem witness_TeardownCompletes_alone :
    let s : State := { walkEnded clearingPort with hpus := (Four.all Hpu.reset).set 2 clearingPort }
    s.config.state = .setup ∧ (∀ q, q ≠ 2 → (s.hpu q).port ≠ .up) ∧ s.config.commits.get 2 = none ∧
      s.config.reopenVotes.get 2 = false ∧
      s.teardown.get 2 = some { recovering with phase := .walking, current := none } := by decide

/-- The completion is the last thing the retention decision waited for. -/
theorem witness_TeardownCompletes_decides :
    RetentionAgreed (oneLinked (agreed running.refresh)) ∧ ¬RetentionAgreed (oneLinked inSetup) :=
  ⟨⟨rfl, rfl, ⟨0, rfl⟩, by decide, rfl, by decide, by decide⟩, fun h => absurd h.running (by decide)⟩

theorem witness_IntervalExpiryOwesARefresh :
    running.resetHigh = true ∧ running.refresh.timer = some 6 ∧ running.refresh.power = .active ∧
      running.refresh.hold = false ∧ running.refresh.refreshing = false ∧
      (∀ b, running.bank b = { state := .idle, current := none, queue := [] }) ∧
      (∀ b, ((readyAt 0 running).bank b).queue = [] ∧ ((readyAt 0 running).bank b).current = none) ∧
      ((readyAt 0 running).bank 0).state ≠ .idle ∧ ((onVoid .groupRead).bank 0).current ≠ none ∧
      (onVoid .groupRead).refresh.debt ≠ 3 ∧ ({ running.refresh with debt := 3 } : RefreshCtl).hold = false := by decide

/-- The same at the debt's limit, under the hold, outside ACTIVE. -/
theorem witness_IntervalExpiryOwesARefresh_held :
    ¬(({ running.refresh with debt := 6 } : RefreshCtl).debt < 6) ∧ running.refresh.overrunRaised = false ∧
      (withRefresh { running.refresh with hold := true }).refresh.hold = true ∧
      (withRefresh { running.refresh with power := .entering, hold := true }).refresh.power = .entering ∧
      (withRefresh { running.refresh with power := .waking, hold := true }).refresh.timer = some 6 ∧
      (withRefresh { running.refresh with power := .retained, hold := true }).refresh.power = .retained := by decide

/-- A refresh in progress with a debt. -/
def refreshing (debt : Nat) : State :=
  { withRefresh { running.refresh with debt := debt, hold := true, refreshing := true } with
    banks := Four.all { state := .refreshing, current := none, queue := [] } }

theorem witness_RefreshStartsAndEnds :
    (withRefresh { running.refresh with hold := true, debt := 1 }).resetHigh = true ∧
      (withRefresh { running.refresh with hold := true, debt := 1 }).refresh.refreshing = false ∧
      (withRefresh { running.refresh with hold := true, debt := 1 }).refresh.power = .active ∧
      (∀ b, ((withRefresh { running.refresh with hold := true, debt := 1 }).bank b).state = .idle ∧
        ((withRefresh { running.refresh with hold := true, debt := 1 }).bank b).current = none) ∧
      (refreshing 5).refresh.hold = true ∧ (refreshing 5).refresh.refreshing = true ∧
      (refreshing 5).refresh.power = .active ∧
      (∀ b, ((refreshing 5).bank b).state = .refreshing ∧ ((refreshing 5).bank b).current = none) ∧
      5 ≤ (refreshing 5).refresh.debt ∧ 2 ≤ (refreshing 2).refresh.debt ∧ (∀ b, ((refreshing 2).bank b).queue = []) ∧
      (refreshing 1).refresh.debt ≤ 1 ∧
      ({ (refreshing 1).refresh with power := .entering } : RefreshCtl).placing = none := by decide

theorem witness_RetentionIsDecidedAndPlaced :
    RetentionAgreed (agreed running.refresh) ∧ (agreed running.refresh).resetHigh = true ∧
      (∀ b, ((agreed running.refresh).bank b).state = .idle ∧ ((agreed running.refresh).bank b).current = none) ∧
      (agreed running.refresh).refresh.refreshing = false ∧ (agreed running.refresh).refresh.placing = none :=
  ⟨agreed_meets _ rfl, by decide⟩

theorem witness_RetentionIsDecidedAndPlaced_waits :
    RetentionAgreed (agreed { running.refresh with hold := true, refreshing := true }) ∧ ¬RetentionAgreed running ∧
      RetentionAgreed (bankIn (.ready 0) none (agreed running.refresh)) ∧
      ((bankIn (.ready 0) none (agreed running.refresh)).bank 0).state ≠ .idle ∧
      RetentionAgreed (bankIn (.closing 0) none (agreed { running.refresh with hold := true })) ∧
      (agreed { running.refresh with hold := true }).refresh.hold = true :=
  ⟨agreed_meets _ rfl, fun h => absurd (h.voted 0 rfl) (by decide),
    ⟨rfl, rfl, ⟨0, rfl⟩, by decide, rfl, by decide, by decide⟩, by decide,
    ⟨rfl, rfl, ⟨0, rfl⟩, by decide, rfl, by decide, by decide⟩, rfl⟩

theorem witness_RetentionIsDecidedAndPlaced_placing :
    (withRefresh { running.refresh with power := .entering, hold := true }).refresh.placing = none ∧
      (withRefresh { running.refresh with power := .entering, hold := true }).refresh.refreshing = false ∧
      ∀ b, ((withRefresh { running.refresh with power := .entering, hold := true }).bank b).state = .idle := by decide

theorem witness_RetentionEntryLosesTheUnmaskedBanks :
    ({ withRefresh { running.refresh with power := .entering, hold := true, placing := some 0xE } with
        watches := [{ watching with id := 0 }, watching] } : State).resetHigh = true ∧
      (withRefresh { running.refresh with power := .entering, hold := true, placing := some 0xE }).refresh.power = .entering ∧
      [{ watching with id := 0 }, watching].Pairwise (fun v w => v.id < w.id) := by decide

theorem witness_RetentionExitRestoresTheBanks :
    (withRefresh { running.refresh with power := .waking, hold := true, heldWakes := [(0, 2)] }).resetHigh = true ∧
      (withRefresh { running.refresh with power := .waking, hold := true, heldWakes := [(0, 2)] }).refresh.power = .waking ∧
      ∀ b, ((withRefresh { running.refresh with power := .waking, hold := true }).bank b).current = none := by decide

theorem witness_AnswersAndEventsReachTheirPorts :
    (running.hpu 0).port = .up ∧ (running.hpu 0).link = .alive ∧ (running.eventPort 0).queue.length < 16 := by decide

theorem witness_ResponsesAreLaidOut :
    (RespBody.words (.groupRead 65535 (List.replicate 16 .void))).length < 256 ∧ (65535 : CellIx) < 65536 ∧
      (RespBody.words (.events (List.replicate 4 { seq := 65535, event := .cellLost 31 65535 }) 16)).length < 256 ∧
      whole.base < 65536 ∧ whole.length ≤ 65536 ∧ Settings.reset.interval < 256 := by decide

/-! The invariants hold in a state with work in it, and a step goes on from there. -/

/-- Ports 0 and 1 UP, cell 5 owned by port 0, one operation parked, one watch, one access queued and one current, a
REOPEN held, a response to send, one command waiting; what is to be answered has its tag OUTSTANDING. -/
def occupied : State :=
  { withCell 3 (some 0) none running with
    hpus :=
      ⟨{ upPort with
          tags := ((Eight.all .free).set 2 .outstanding).set 3 .outstanding },
        { upPort with
          tags := (((Eight.all .free).set 3 .outstanding).set 4 .outstanding).set 5 .outstanding
          sendList := [{ kind := 0x95, tag := 5, body := .ok }] }, Hpu.reset, Hpu.reset⟩
    park := [waiting]
    watches := [watching]
    config := oneReopen.config
    banks := running.banks.set 0
      { state := .accessing 0, current := some (hostAccess .groupRead), queue := [{ farAccess 1 with tag := some 3 }] }
    pending := [.groupReadAccess 0] }

theorem occupied_steps : ∃ t, step occupied = .next t := ⟨_, rfl⟩

theorem occupied_readCell (c : CellIx) : occupied.readCell c = if c = 5 then .live 3 (some 0) none else .void := by
  have h : occupied.readCell c = if 5 = c then .live 3 (some 0) none else State.reset.readCell c := by
    unfold State.readCell CellStore.read
    show (if 5 = c then some (CellRec.live 3 (some 0) none) else none).getD _ = _
    split
    · rfl
    · rfl
  rw [h, reset_readCell]
  simp only [eq_comm]

theorem witness_EveryStepKeepsTheCellStore : occupied.CellsOk := by
  have part : ∀ a : Access, a.cell < 65536 → a.work = .groupRead → a.inPart := by
    intro a h hw
    exact ⟨h, fun i hi => by rw [hw] at hi; cases hi⟩
  refine ⟨by decide, ?_, ?_, by decide, by decide, fun i hi => by cases hi⟩
  · intro b a ha
    fin_cases b <;> simp [occupied, State.bank, running, State.reset, Four.get, Four.set, Four.all] at ha
    subst ha
    exact part _ (by decide) rfl
  · intro b a ha
    fin_cases b <;> simp [occupied, State.bank, running, State.reset, Four.get, Four.set, Four.all] at ha
    subst ha
    exact part _ (by decide) rfl

theorem witness_EveryStepKeepsOwnersAndStampLists : occupied.StampsOk := by
  refine ⟨fun p c => ?_, by decide, by decide⟩
  rw [occupied_readCell]
  fin_cases p <;> by_cases h : c = 5 <;>
    simp [h, occupied, withCell, running, State.reset, Four.get, Four.set, Four.all, CellRec.owner]

theorem witness_EveryStepKeepsCapacitiesAndBankQueues : occupied.TablesOk ∧ occupied.QueuesOk := by
  refine ⟨⟨by decide, by decide, by decide, ⟨by decide, by decide⟩, by decide, by decide, by decide⟩, fun b => ?_⟩
  fin_cases b <;> exact ⟨by decide, by decide, by decide, by decide⟩

theorem witness_EveryStepKeepsBanksAndPowerInStep : occupied.BanksOk := by
  refine ⟨fun b => ?_, ?_, by decide, by decide, fun _ b => ?_, ?_, by decide⟩
  · fin_cases b
    · exact ⟨hostAccess .groupRead, rfl, rfl⟩
    all_goals rfl
  · intro h
    exact absurd h (by decide)
  · fin_cases b <;> exact fun h => by cases h <;> contradiction
  · intro h
    exact absurd h (by decide)

theorem witness_EveryStepKeepsThePorts : occupied.PortsOk := by
  intro p
  refine ⟨?_, ?_, ?_, ?_, ?_, ?_, ?_, fun h => ⟨?_, ?_, ?_, ?_, ?_, ?_⟩⟩ <;> revert p <;> decide

theorem witness_EveryStepKeepsTheTags : occupied.PortsOk ∧ occupied.TagsOk := by
  have up : ∀ b, ∀ a ∈ (occupied.bank b).current.toList, (occupied.hpu a.port).port = .up := by decide
  exact ⟨witness_EveryStepKeepsThePorts, by decide, by decide, ⟨by decide, by decide⟩, by decide,
    fun b a ha _ hn => absurd (up b a ha) hn, by decide, by decide⟩

end Sys2Proof.Tests
end

namespace Sys2Proof.Machine

/-! ### Cell addressing (R4)

A cell index is a number written with three digits: a row of 1,024, a bank of four and a column of sixteen. The `change`
steps below state a goal about `CellIx` over `Nat`, which is where `omega` reads it. -/

@[simp] theorem bankOf_val (c : CellIx) : (bankOf c).val = c / 16 % 4 := rfl

/-- The bank and the row of a cell depend on its group alone. -/
theorem bankOf_rowOf_eq_of_group_eq {c d : CellIx} (h : d / 16 = c / 16) :
    bankOf d = bankOf c ∧ rowOf d = rowOf c := by
  have row_of_group (x : CellIx) : rowOf x = x / 16 / 4 := (Nat.div_div_eq_div_mul x 16 4).symm
  exact ⟨Fin.ext (by rw [bankOf_val, bankOf_val, h]), by rw [row_of_group, row_of_group, h]⟩

theorem groupBase_eq (c : CellIx) : groupBase c = c / 16 * 16 := Nat.div_mul_self_eq_mod_sub_self.symm

/-- The sixteen cells counted from a group's first cell are in that group. -/
theorem groupBase_add_div (c : CellIx) {k : Nat} (hk : k < 16) : (groupBase c + k) / 16 = c / 16 := by
  rw [groupBase_eq]
  change @Eq Nat ((c / 16 * 16 + k) / 16) (c / 16)
  omega

theorem rowOf_le {c : CellIx} (hc : c < 65536) : rowOf c ≤ 1023 :=
  Nat.le_of_lt_succ (Nat.div_lt_of_lt_mul hc)

/-- The cell that a cell's own bank, row and column name is the cell itself. -/
theorem cellAt_bankOf_rowOf_columnOf (c : CellIx) : cellAt (bankOf c) (rowOf c) (columnOf c) = c := by
  change @Eq Nat (64 * (c / 64) + 16 * (c / 16 % 4) + c % 16) c
  omega

theorem cellAt_lt (b : Bank) {row col : Nat} (hrow : row ≤ 1023) (hcol : col < 16) : cellAt b row col < 65536 := by
  have hb := b.isLt
  change @LT.lt Nat _ (64 * row + 16 * b.val + col) 65536
  omega

theorem bankOf_cellAt (b : Bank) (row : Nat) {col : Nat} (hcol : col < 16) : bankOf (cellAt b row col) = b := by
  have hb := b.isLt
  apply Fin.ext
  change (64 * row + 16 * b.val + col) / 16 % 4 = b.val
  omega

theorem rowOf_cellAt (b : Bank) (row : Nat) {col : Nat} (hcol : col < 16) : rowOf (cellAt b row col) = row := by
  have hb := b.isLt
  change (64 * row + 16 * b.val + col) / 64 = row
  omega

theorem columnOf_cellAt (b : Bank) (row : Nat) {col : Nat} (hcol : col < 16) :
    columnOf (cellAt b row col) = col := by
  change (64 * row + 16 * b.val + col) % 16 = col
  omega

/-- Settles O38: `cellAt` and the three formulas of R4 are inverse to each other, and the bank and row of a cell are read
off its group. -/
theorem cellAddressing : Obligations.CellAddressing := by
  unfold Obligations.CellAddressing
  constructor
  · intro c hc
    exact ⟨bankOf_val c, rfl, rfl, rowOf_le hc, (cellAt_bankOf_rowOf_columnOf c).symm, groupBase_eq c,
      fun k hk => bankOf_rowOf_eq_of_group_eq (groupBase_add_div c hk)⟩
  · intro b row col hrow hcol
    exact ⟨cellAt_lt b hrow hcol, bankOf_cellAt b row hcol, rowOf_cellAt b row hcol, columnOf_cellAt b row hcol⟩

end Sys2Proof.Machine

namespace Sys2Proof.Machine

/-! ### The compare flags and the guard (R21 to R24)

The one fact of substance is that N differs from V exactly when the value is less under the signed reading. Operands of
one sign subtract without overflow, and N is the borrow. Operands of different signs compare by the value's own sign,
and V corrects N to it. -/

/-- Between words of one sign, the sign of the difference is the borrow. -/
theorem msb_sub_of_msb_eq {x y : Word} (h : x.msb = y.msb) : (x - y).msb = x.ult y := by
  have hx := x.isLt
  have hy := y.isLt
  rw [BitVec.msb_eq_decide, BitVec.msb_eq_decide, decide_eq_decide] at h
  rw [BitVec.msb_eq_decide, BitVec.ult, decide_eq_decide, BitVec.toNat_sub]
  omega

/-- Between words of different signs, the negative one is the lesser. -/
theorem slt_of_msb_ne {x y : Word} (h : x.msb ≠ y.msb) : x.slt y = x.msb := by
  rw [BitVec.slt_eq_not_ult_of_msb_neq h, BitVec.ult_eq_msb_of_msb_neq h, Bool.eq_not_of_ne h]

theorem msb_eq_getLsbD_31 (x : Word) : x.msb = x.getLsbD 31 := BitVec.msb_eq_getLsbD_last x

/-! #### The flags (R21) -/

section
variable (value cmp : Word)

theorem compareFlags_n : (compareFlags value cmp).n = (value - cmp).msb := rfl

theorem compareFlags_v :
    (compareFlags value cmp).v = ((value.msb != cmp.msb) && ((value - cmp).msb != value.msb)) := rfl

@[simp] theorem compareFlags_c_iff :
    (compareFlags value cmp).c = true ↔ value.toNat < cmp.toNat := decide_eq_true_iff

@[simp] theorem compareFlags_z_iff : (compareFlags value cmp).z = true ↔ value = cmp :=
  beq_iff_eq.trans sub_eq_zero

theorem compareFlags_n_iff : (compareFlags value cmp).n = true ↔ (value - cmp).getLsbD 31 = true := by
  rw [compareFlags_n, msb_eq_getLsbD_31]

theorem compareFlags_v_iff :
    (compareFlags value cmp).v = true ↔
      value.getLsbD 31 ≠ cmp.getLsbD 31 ∧ (value - cmp).getLsbD 31 ≠ value.getLsbD 31 := by
  simp only [compareFlags_v, msb_eq_getLsbD_31, Bool.and_eq_true, bne_iff_ne]

/-- N and V together decide the signed order (R22, LT and GE). -/
theorem compareFlags_n_bne_v :
    ((compareFlags value cmp).n != (compareFlags value cmp).v) = value.slt cmp := by
  by_cases signs : value.msb = cmp.msb
  · have no_overflow : (compareFlags value cmp).v = false := by simp [compareFlags_v, signs]
    calc ((compareFlags value cmp).n != (compareFlags value cmp).v)
        = (value - cmp).msb := by rw [no_overflow, Bool.bne_false, compareFlags_n]
      _ = value.ult cmp := msb_sub_of_msb_eq signs
      _ = value.slt cmp := (BitVec.slt_eq_ult_of_msb_eq signs).symm
  · have overflow : (compareFlags value cmp).v = ((value - cmp).msb != value.msb) := by simp [compareFlags_v, signs]
    calc ((compareFlags value cmp).n != (compareFlags value cmp).v)
        = ((value - cmp).msb != ((value - cmp).msb != value.msb)) := by rw [overflow, compareFlags_n]
      _ = value.msb := by simp
      _ = value.slt cmp := (slt_of_msb_ne signs).symm

theorem compareFlags_n_ne_v_iff :
    (compareFlags value cmp).n ≠ (compareFlags value cmp).v ↔ value.toInt < cmp.toInt := by
  rw [← bne_iff_ne, compareFlags_n_bne_v, BitVec.slt_iff_toInt_lt]

theorem compareFlags_n_eq_v_iff :
    (compareFlags value cmp).n = (compareFlags value cmp).v ↔ cmp.toInt ≤ value.toInt := by
  rw [← not_lt, ← compareFlags_n_ne_v_iff, not_not]

end

/-! #### What each predicate says of value and compare operand (R22) -/

section
variable (f : Flags)

@[simp] theorem predHolds_eq : predHolds .eq f = f.z := rfl
@[simp] theorem predHolds_ne : predHolds .ne f = !f.z := rfl
@[simp] theorem predHolds_lt : predHolds .lt f = (f.n != f.v) := rfl
@[simp] theorem predHolds_ge : predHolds .ge f = (f.n == f.v) := rfl
@[simp] theorem predHolds_gt : predHolds .gt f = (!f.z && (f.n == f.v)) := rfl
@[simp] theorem predHolds_le : predHolds .le f = (f.z || (f.n != f.v)) := rfl
@[simp] theorem predHolds_ult : predHolds .ult f = f.c := rfl
@[simp] theorem predHolds_uge : predHolds .uge f = !f.c := rfl
@[simp] theorem predHolds_ugt : predHolds .ugt f = (!f.c && !f.z) := rfl
@[simp] theorem predHolds_ule : predHolds .ule f = (f.c || f.z) := rfl

end

section
variable (value cmp : Word)

theorem predHolds_eq_iff : predHolds .eq (compareFlags value cmp) = true ↔ value = cmp := by
  rw [predHolds_eq, compareFlags_z_iff]

theorem predHolds_ne_iff : predHolds .ne (compareFlags value cmp) = true ↔ value ≠ cmp := by
  rw [predHolds_ne, Bool.not_eq_true', ← Bool.not_eq_true, compareFlags_z_iff]

theorem predHolds_lt_iff : predHolds .lt (compareFlags value cmp) = true ↔ value.toInt < cmp.toInt := by
  rw [predHolds_lt, bne_iff_ne, compareFlags_n_ne_v_iff]

theorem predHolds_ge_iff : predHolds .ge (compareFlags value cmp) = true ↔ cmp.toInt ≤ value.toInt := by
  rw [predHolds_ge, beq_iff_eq, compareFlags_n_eq_v_iff]

theorem predHolds_le_iff : predHolds .le (compareFlags value cmp) = true ↔ value.toInt ≤ cmp.toInt := by
  rw [predHolds_le, Bool.or_eq_true, compareFlags_z_iff, bne_iff_ne, compareFlags_n_ne_v_iff, ← BitVec.toInt_inj,
    ← le_iff_eq_or_lt]

theorem predHolds_gt_iff : predHolds .gt (compareFlags value cmp) = true ↔ cmp.toInt < value.toInt := by
  rw [predHolds_gt, Bool.and_eq_true, Bool.not_eq_true', ← Bool.not_eq_true, compareFlags_z_iff, beq_iff_eq,
    compareFlags_n_eq_v_iff, ← BitVec.toInt_inj]
  omega

theorem predHolds_ult_iff : predHolds .ult (compareFlags value cmp) = true ↔ value.toNat < cmp.toNat := by
  rw [predHolds_ult, compareFlags_c_iff]

theorem predHolds_uge_iff : predHolds .uge (compareFlags value cmp) = true ↔ cmp.toNat ≤ value.toNat := by
  rw [predHolds_uge, Bool.not_eq_true', ← Bool.not_eq_true, compareFlags_c_iff, not_lt]

theorem predHolds_ule_iff : predHolds .ule (compareFlags value cmp) = true ↔ value.toNat ≤ cmp.toNat := by
  rw [predHolds_ule, Bool.or_eq_true, compareFlags_c_iff, compareFlags_z_iff, ← BitVec.toNat_inj, ← le_iff_lt_or_eq]

theorem predHolds_ugt_iff : predHolds .ugt (compareFlags value cmp) = true ↔ cmp.toNat < value.toNat := by
  rw [predHolds_ugt, Bool.and_eq_true, Bool.not_eq_true', ← Bool.not_eq_true, compareFlags_c_iff, Bool.not_eq_true',
    ← Bool.not_eq_true, compareFlags_z_iff, ← BitVec.toNat_inj]
  omega

end

/-! #### The parts of the guard (R23, R24) -/

theorem ownHolds_iff (c : OwnCond) (p : Port) (o : Option Port) :
    ownHolds c p o = true ↔
      match c with
      | .any => True
      | .none => o = none
      | .mine => o = some p
      | .notMine => o ≠ some p := by
  cases c with
  | any => exact iff_of_true rfl trivial
  | none => exact beq_iff_eq
  | mine => exact beq_iff_eq
  | notMine => exact bne_iff_ne

theorem stampPre_stamp (p : Port) (o : Option Port) : stampPre .stamp p o = (o == none || o == some p) := rfl

theorem stampPre_iff (a : StampAct) (p : Port) (o : Option Port) :
    stampPre a p o = true ↔
      match a with
      | .keep => True
      | .stamp => o = none ∨ o = some p
      | .unstamp => o = some p := by
  cases a with
  | keep => exact iff_of_true rfl trivial
  | stamp => rw [stampPre_stamp, Bool.or_eq_true, beq_iff_eq, beq_iff_eq]
  | unstamp => exact beq_iff_eq

theorem guardHolds_eq (op : OpFields) (p : Port) (v : Word) (o : Option Port) :
    guardHolds op p v o =
      (predHolds op.pred (compareFlags v op.cmp) && ownHolds op.own p o && stampPre op.stamp p o) := rfl

theorem guardHolds_iff (op : OpFields) (p : Port) (v : Word) (o : Option Port) :
    guardHolds op p v o = true ↔
      predHolds op.pred (compareFlags v op.cmp) = true ∧ ownHolds op.own p o = true ∧ stampPre op.stamp p o = true := by
  rw [guardHolds_eq, Bool.and_eq_true, Bool.and_eq_true, and_assoc]

/-- Settles O30: the flag lemmas of R21, one lemma for each predicate of R22, and the guard as the conjunction of its
three parts. -/
theorem guardsCompareValueAndOwner : Obligations.GuardsCompareValueAndOwner := by
  unfold Obligations.GuardsCompareValueAndOwner
  refine ⟨fun value cmp => ?flags, fun value cmp => ?predicates, fun op p v o => ?guard⟩
  case flags =>
    exact ⟨compareFlags_c_iff value cmp, compareFlags_z_iff value cmp, compareFlags_n_iff value cmp,
      compareFlags_v_iff value cmp⟩
  case predicates =>
    exact ⟨rfl, predHolds_eq_iff value cmp, predHolds_ne_iff value cmp, predHolds_lt_iff value cmp,
      predHolds_le_iff value cmp, predHolds_gt_iff value cmp, predHolds_ge_iff value cmp, predHolds_ult_iff value cmp,
      predHolds_ule_iff value cmp, predHolds_ugt_iff value cmp, predHolds_uge_iff value cmp⟩
  case guard =>
    exact (guardHolds_iff op p v o).trans
      (and_congr_right' (and_congr (ownHolds_iff op.own p o) (stampPre_iff op.stamp p o)))

end Sys2Proof.Machine

namespace Sys2Proof.Machine

/-! ### STATUS (R158)

STATUS passes checks 4 to 7 of R151 whatever the part's states, and check 3 from every port state but DOWN. Its answer is
read after the admission, which changes one thing that it reports: the frame itself can have taken the port from DOWN to
LINKED (R148). -/

theorem portCheck_status_eq_none_iff (st : PortState) : portCheck .status st = none ↔ st ≠ .down := by
  cases st <;> decide

@[simp] theorem powerCheck_status (st : PowerState) : powerCheck .status st = none := by cases st <;> rfl

@[simp] theorem configCheck_status (st : CfgState) : configCheck .status st = none := rfl

@[simp] theorem rightsCheck_status (p : Port) (f : Frame) (t : RegionTable) : rightsCheck .status p f t = none := rfl

@[simp] theorem fieldCheck_status (f : Frame) : fieldCheck .status f = none := rfl

/-- No check refuses a STATUS whose port is not DOWN once its frame has acted on the link. -/
theorem State.refusal_status_receiveValid {p : Port} {s : State} (f : Frame)
    (h : (s.hpu p).validFrame.port ≠ .down) : (s.receiveValid p).refusal .status p f = none := by
  rw [State.refusal_receiveValid, (portCheck_status_eq_none_iff _).2 h, powerCheck_status, configCheck_status,
    rightsCheck_status, fieldCheck_status]
  rfl

/-- An admission changes the port state of its own port alone, to what the frame made it. -/
theorem State.ports_admitted (v : Bool) (p : Port) (f : Frame) (s : State) :
    (s.admitted v p f).hpus.map (fun h => h.port) = (s.hpus.map (fun h => h.port)).set p (s.hpu p).validFrame.port :=
  Four.map_set _ _ _ _

/-- Of what STATUS reports, an admission changes the port states alone. -/
theorem State.statusReport_admitted (v : Bool) (p : Port) (f : Frame) (s : State) :
    (s.admitted v p f).statusReport p =
      { s.statusReport p with ports := (s.hpus.map (fun h => h.port)).set p (s.hpu p).validFrame.port } := by
  rw [← State.ports_admitted v p f s]
  rfl

/-- A ready STATUS of a port that is not DOWN is answered with the report of the state it is admitted in. -/
theorem exec_status_answered {p : Port} {f : Frame} {s : State} (h : Ready .status p f s)
    (notDown : (s.hpu p).validFrame.port ≠ .down) :
    exec (.status p f) s =
      .next (s.answered .status p f (.status ((s.admitted (keepsVote .status) p f).statusReport p))) :=
  calc
    exec (.status p f) s = .next (serveOf .status p f (s.admitted (keepsVote .status) p f)) :=
      exec_served h (State.refusal_status_receiveValid f notDown)
    _ = _ := congrArg _ (State.answer_alive (State.admitted_alive _ _ _ _))

/-- Settles O14: no check refuses the STATUS, and the report it is answered with differs from that of the state before in
its port's own state alone. -/
theorem statusReportsThePart : Obligations.StatusReportsThePart := by
  unfold Obligations.StatusReportsThePart
  intro p f s ready notDown
  rw [exec_status_answered ready notDown, State.statusReport_admitted]
  rfl

end Sys2Proof.Machine

namespace Sys2Proof.Machine

/-! ### The moves a step is made of

Every command is a composition of a few moves on the blocks' state. `Moves` lists them, each with what the model has
tested when it makes it, and `Moves.exec` and `TimedMoves.step` say that a predicate kept by each move is kept by every
command and by every step. An invariant
that holds between the parts of a command is then proved move by move. Cell indices and INIT_CELLS ranges that
travel through the part are spoken of by two predicates, so that an invariant may bound them. -/

/-- An HPU changed in nothing that another block depends on: port, link and held JOIN stay, a timer stays or runs, and
on a DEAD link nothing of it moves. -/
structure Hpu.Alike (h k : Hpu) : Prop where
  port : k.port = h.port
  link : k.link = h.link
  heldJoin : k.heldJoin = h.heldJoin
  recv : k.recvTimer = h.recvTimer ∨ h.link = .alive ∧ k.recvTimer.isSome = true
  send : k.sendTimer = h.sendTimer ∨ h.link = .alive ∧ k.sendTimer.isSome = true
  sendList : k.sendList = h.sendList ∨ h.link = .alive

/-- A Configuration Controller in which only UP ports have gained a vote, a commit record or a held request, and whose
INIT_CELLS have known ranges. -/
structure State.ConfigFits (rangeKnown : InitFields → Prop) (s : State) (k : ConfigCtl) : Prop where
  commits : ∀ p, k.commits.get p = none ∨ k.commits.get p = s.config.commits.get p ∨ (s.hpu p).port = .up
  votes : ∀ p, k.reopenVotes.get p = false ∨ k.reopenVotes.get p = s.config.reopenVotes.get p ∨ (s.hpu p).port = .up
  commitsHeld : ∀ x ∈ k.heldCommits, x ∈ s.config.heldCommits ∨ (s.hpu x.1).port = .up
  reopensHeld : ∀ x ∈ k.heldReopens, x ∈ s.config.heldReopens ∨ (s.hpu x.1).port = .up
  inits : ∀ i ∈ k.inits, rangeKnown i.init

/-- Quiesce votes and held WAKEs of which only UP ports have gained one. -/
structure State.VotesFit (s : State) (votes : Four Bool) (wakes : List (Port × Tag)) : Prop where
  votes : ∀ p, votes.get p = false ∨ votes.get p = s.refresh.votes.get p ∨ (s.hpu p).port = .up
  wakes : ∀ x ∈ wakes, x ∈ s.refresh.heldWakes ∨ (s.hpu x.1).port = .up

/-- A record that a cell may take: a port that becomes its owner has room in its stamp list (R28). -/
def State.RecordFits (c : CellIx) (r : CellRec) (s : State) : Prop :=
  ∀ p, r.owner = some p → (s.readCell c).owner ≠ some p → (s.stamps.get p).length < Config.stampCapacity

/-- A port that goes UP by JOIN, before PORT_JOINED is raised. -/
def State.goUp (p : Port) (s : State) : State :=
  (s.modHpu p (fun h => { h with port := .up })).modEvents p (fun q => { q with seq := 0, attention := true })

theorem State.joinUp_eq (p : Port) (s : State) : s.joinUp p = (s.goUp p).raiseOthers p (.portJoined p) := rfl

/-- A port's teardown record goes idle. -/
def State.dropRecord (p : Port) (s : State) : State := { s with teardown := s.teardown.set p none }

/-- The share of an HPU in a link loss that starts no teardown: a LINKED port also goes DOWN (R148). -/
def Hpu.lostLink (h : Hpu) : Hpu := { h.loseLink with port := if h.port = .linked then .down else h.port }

/-- A refresh has ended: the banks IDLE, the debt less by 1 (R105). -/
def State.refreshOver (s : State) : State :=
  { s with
    banks := s.banks.map BankCtl.toIdle
    refresh := { s.refresh with debt := s.refresh.debt - 1, refreshing := false } }

/-- The hold placed on the banks, before the Refresh Controller tests what it waits for (R96). -/
def State.holdBanks (s : State) : State :=
  { s with banks := s.banks.map BankCtl.holdPlaced, refresh := { s.refresh with hold := true } }

/-- The exit from retention up to its fourth step (R115). -/
def State.wakeBanks (s : State) : State :=
  ((s.modRefresh (fun r => { r with debt := 0 })).beginInterval.liftHold).modRefresh (fun r => { r with power := .active })

/-- The moves that keep a predicate. `cellKnown` and `rangeKnown` say what it knows of the cell indices and INIT_CELLS
ranges in the part. -/
structure Moves (cellKnown : CellIx → Prop) (rangeKnown : InitFields → Prop) (I : State → Prop) : Prop where
  -- indices
  currentKnown : ∀ {s b a}, I s → (s.bank b).current = some a → cellKnown a.cell ∧ ∀ i, a.work = .groupWrite i → rangeKnown i
  parkedKnown : ∀ {s e}, I s → e ∈ s.park → cellKnown e.cell
  stampedKnown : ∀ {s p c}, I s → c ∈ s.stamps.get p → cellKnown c
  flightKnown : ∀ {s i}, I s → i ∈ s.config.inits → rangeKnown i.init
  partKnown : ∀ {c}, c < Config.cellCount → cellKnown c
  fitsKnown : ∀ {i : InitFields}, i.fits → rangeKnown i
  inRangeKnown : ∀ {i : InitFields} {c}, rangeKnown i → i.base ≤ c → c < i.base + i.count → cellKnown c
  nextKnown : ∀ {i : InitFields} {c : CellIx}, rangeKnown i → c ≤ i.lastCell → cellKnown (max i.base c)
  -- the count of choices, and reset
  choices : ∀ {s} n, I s → I { s with choices := n }
  reset : ∀ {s}, I s → I s.heldInReset
  release : ∀ {s}, I s → I s.releaseReset
  -- ports and links
  hpu : ∀ {s p k}, I s → (s.hpu p).Alike k → I { s with hpus := s.hpus.set p k }
  validFrame : ∀ {s} p, I s → I (s.receiveValid p)
  holdJoin : ∀ {s p} t, I s → (s.hpu p).port = .clearing → (s.hpu p).link = .alive →
    I (s.modHpu p (fun h => { h with heldJoin := some t }))
  goUp : ∀ {s p}, I s → (s.hpu p).port = .linked ∨ (s.hpu p).port = .down → (s.hpu p).link = .alive → I (s.goUp p)
  rejoin : ∀ {s p t r}, I s → s.teardown.get p = some r → (s.hpu p).heldJoin = some t →
    I (((s.dropRecord p).modHpu p (fun h => { h with heldJoin := none })).goUp p)
  leave : ∀ {s p r}, I s → s.teardown.get p = some r → (s.hpu p).heldJoin = none →
    I ((s.dropRecord p).modHpu p (fun h => { h with port := if h.link = .alive then .linked else .down }))
  lostLink : ∀ {s p}, I s → (s.hpu p).port ≠ .up → I (s.modHpu p Hpu.lostLink)
  clear : ∀ {s p} reason, I s → (s.hpu p).port = .up → I (s.clearPort p reason)
  clearLost : ∀ {s p} reason, I s → (s.hpu p).port = .up → I ((s.modHpu p Hpu.loseLink).clearPort p reason)
  teardown : ∀ {s td}, I s → (∀ q, (td.get q).isSome = (s.teardown.get q).isSome) → I { s with teardown := td }
  -- events and watches
  raise : ∀ {s} p e, I s → I (s.raise p e)
  fetch : ∀ {s} p n, I s → I (s.modEvents p (fun x => { x with queue := x.queue.drop n }))
  attention : ∀ {s p} on, I s → (s.hpu p).port = .up → I (s.setAttention p on)
  addWatch : ∀ {s p} c f v, I s → (s.hpu p).port = .up → s.watchFull p = false →
    I (s.addWatch (newWatch s.freeWatchId p c f v))
  removeWatch : ∀ {s} id, I s → I (s.removeWatch id)
  setLast : ∀ {s} id last, I s → I (s.setLast id last)
  clearWatches : ∀ {s}, I s → I { s with watches := [] }
  -- the Park List
  unparkAll : ∀ {s}, I s → I { s with park := [] }
  unpark : ∀ {s} p t, I s → I (s.unpark p t)
  renew : ∀ {s} p t v o, I s → I (s.renew p t v o)
  parkNow : ∀ {s p t c op v o}, I s → (s.hpu p).port = .up → s.park.length < Config.parkCapacity → cellKnown c →
    I (s.parkNow p t c op v o)
  -- cells
  putCell : ∀ {s c r}, I s → cellKnown c → s.RecordFits c r → I (s.putCell c r)
  loseCells : ∀ {s} mask, I s → I (s.loseCells mask)
  -- banks
  enqueue : ∀ {s a}, I s → cellKnown a.cell → (∀ i, a.work = .groupWrite i → rangeKnown i) → I (s.enqueue a)
  pickBank : ∀ {s} b, I s → I (s.pickBank b)
  afterAccess : ∀ {s} b, I s → I (s.modBank b (BankCtl.afterAccess s.refresh.hold s.table.settings.page))
  closeEnded : ∀ {s b}, I s → (s.bank b).isClosing = true → I (s.modBank b BankCtl.closeEnded)
  openEnded : ∀ {s} b, I s → I (s.modBank b BankCtl.openEnded)
  -- refresh and retention
  interval : ∀ {s} n, I s → I (s.modRefresh (fun r => { r with timer := some n }))
  overrun : ∀ {s}, I s → I (s.modRefresh (fun r => { r with overrun := true, overrunRaised := true }))
  owe : ∀ {s}, I s → s.refresh.power = .active ∨ s.refresh.power = .entering → s.refresh.debt < Config.debtCap →
    I (s.modRefresh (fun r => { r with debt := r.debt + 1 }))
  holdBanks : ∀ {s}, I s → I s.holdBanks
  beginRefresh : ∀ {s}, I s → s.heldClosed = true → s.refresh.power = .active → I s.beginRefresh
  refreshOver : ∀ {s}, I s → s.refresh.refreshing = true → I s.refreshOver
  refreshAgain : ∀ {s}, I s → s.refresh.refreshing = true → s.refresh.power = .active → I s.refreshOver.beginRefresh
  refreshLift : ∀ {s}, I s → s.refresh.refreshing = true → s.refresh.power = .active → I s.refreshOver.liftHold
  enterFree : ∀ {s}, I s → s.refresh.power = .active → s.refresh.hold = false →
    I (s.modRefresh (fun r => { r with power := .entering })).holdBanks
  enterHeld : ∀ {s}, I s → s.refresh.power = .active → s.refresh.hold = true →
    I (s.modRefresh (fun r => { r with power := .entering }))
  beginPlacing : ∀ {s} mask, I s → s.heldClosed = true → s.refresh.power = .entering →
    I (s.modRefresh (fun r => { r with placing := some mask }))
  setRetained : ∀ {s mask}, I s → s.refresh.power = .entering → s.refresh.placing = some mask → I (s.setRetained mask)
  startExit : ∀ {s}, I s → s.refresh.power = .retained → I s.startExit
  wakeBanks : ∀ {s}, I s → s.refresh.power = .waking → I s.wakeBanks
  votes : ∀ {s v w}, I s → s.VotesFit v w → I (s.modRefresh (fun r => { r with votes := v, heldWakes := w }))
  -- configuration
  config : ∀ {s k}, I s → s.ConfigFits rangeKnown k → I { s with config := k }
  table : ∀ {s t}, I s → t.entries.length = s.table.entries.length → I { s with table := t }

/-- The moves of a command, with those of the queue of commands and of the passing of time. -/
structure TimedMoves (cellKnown : CellIx → Prop) (rangeKnown : InitFields → Prop) (I : State → Prop) : Prop
    extends Moves cellKnown rangeKnown I where
  pending : ∀ {s} l, I s → I { s with pending := l }
  clock : ∀ {s} n, I s → I { s with now := n }
  advance : ∀ {s}, I s → I s.advance

end Sys2Proof.Machine

namespace Sys2Proof.Machine

/-! ### Every operation of the model is made of these moves -/

section
variable {K : CellIx → Prop} {F : InitFields → Prop} {I : State → Prop} (h : Moves K F I) {s : State}
include h

/-! #### Responses and events -/

theorem Moves.reply (p : Port) (kind : Byte) (t : Tag) (body : RespBody) (hs : I s) : I (s.reply p kind t body) := by
  refine h.hpu hs ?_
  change (s.hpu p).Alike (if (s.hpu p).link = .alive then _ else _)
  split
  · rename_i alive
    exact ⟨rfl, rfl, rfl, .inl rfl, .inl rfl, .inr alive⟩
  · exact ⟨rfl, rfl, rfl, .inl rfl, .inl rfl, .inl rfl⟩

theorem Moves.answer (k : Kind) (p : Port) (f : Frame) (body : RespBody) (hs : I s) : I (s.answer k p f body) :=
  h.reply _ _ _ _ hs

theorem Moves.replyUp (p : Port) (kind : Byte) (t : Tag) (body : RespBody) (hs : I s) : I (s.replyUp p kind t body) := by
  unfold State.replyUp
  split
  · exact h.reply _ _ _ _ hs
  · exact hs

omit h in
/-- A predicate that each step of a fold keeps is kept by the fold. -/
theorem foldl_kept {α : Type} {f : State → α → State} (l : List α) (kept : ∀ t, ∀ x ∈ l, I t → I (f t x)) (hs : I s) :
    I (l.foldl f s) := by
  induction l generalizing s with
  | nil => exact hs
  | cons x rest ih =>
    exact ih (fun t y hy => kept t y (List.mem_cons_of_mem _ hy)) (kept s x List.mem_cons_self hs)

theorem Moves.replyHeld (kind : Byte) (body : RespBody) (held : List (Port × Tag)) (hs : I s) :
    I (s.replyHeld kind body held) :=
  foldl_kept held (fun _ _ _ ht => h.reply _ _ _ _ ht) hs

theorem Moves.handAll (answers : List (Port × Response)) (hs : I s) : I (s.handAll answers) :=
  foldl_kept answers (fun _ _ _ ht => h.replyUp _ _ _ _ ht) hs

theorem Moves.raiseAll (e : Event) (hs : I s) : I (s.raiseAll e) := foldl_kept _ (fun _ _ _ ht => h.raise _ _ ht) hs

theorem Moves.raiseOthers (p : Port) (e : Event) (hs : I s) : I (s.raiseOthers p e) :=
  foldl_kept _ (fun _ _ _ ht => h.raise _ _ ht) hs

/-! #### Banks and the hold -/

theorem Moves.endAtBank (b : Bank) (hs : I s) : I (s.endAtBank b) := h.pickBank b (h.afterAccess b hs)

theorem Moves.testRefreshStart (hs : I s) : I s.testRefreshStart := by
  unfold State.testRefreshStart
  split
  · rename_i due
    obtain ⟨closed, active⟩ := Bool.and_eq_true_iff.1 due
    exact h.beginRefresh hs closed (by simpa using active)
  · exact hs

theorem Moves.testPlacingStart (hs : I s) : I s.testPlacingStart := by
  unfold State.testPlacingStart
  split
  · rename_i due
    simp only [Bool.and_eq_true, beq_iff_eq] at due
    exact h.beginPlacing _ hs due.1.1 due.1.2
  · exact hs

theorem Moves.testHeld (hs : I s) : I s.testHeld := h.testPlacingStart (h.testRefreshStart hs)

theorem Moves.placeHold (hs : I s) : I s.placeHold := h.testHeld (h.holdBanks hs)

theorem Moves.testOpportunity (hs : I s) : I s.testOpportunity := by
  unfold State.testOpportunity
  split
  · exact h.placeHold hs
  · exact hs

/-! #### Parked operations and the cascade -/

theorem Moves.endParked (e : ParkEntry) (o : OpOutcome) (hs : I s) : I (s.endParked e o) :=
  h.replyUp _ _ _ _ (h.unpark _ _ hs)

omit h in
/-- An operation whose guard holds, and that is not STAMP_FULL, leaves a record its cell may take (R28). -/
theorem recordFits_opRecord {c : CellIx} {op : OpFields} {p : Port} {v : Word} {o : Option Port} {r : Option Word}
    (live : s.readCell c = .live v o r) (guard : guardHolds op p v o = true)
    (room : stampFull op.stamp o (s.stampCount p) = false) : s.RecordFits c (opRecord op p v o r) := by
  intro q new old
  rw [live] at old
  have pre := (guardHolds_iff op p v o).1 guard |>.2.2
  rw [stampPre_iff] at pre
  cases ha : op.stamp <;> simp [ha, opRecord, CellRec.owner, ownerAfter] at new old pre
  case keep => exact absurd new old
  case stamp =>
    subst new
    obtain rfl | rfl := pre
    · change s.stampCount p < _
      simpa [stampFull, ha] using room
    · exact absurd rfl old

theorem Moves.evalParked {e : ParkEntry} (known : K e.cell) (hs : I s) : I (s.evalParked e).state := by
  unfold State.evalParked
  split
  case h_1 v o r live =>
    split
    · rename_i guard
      split
      · exact h.unpark _ _ hs
      · rename_i room
        exact h.putCell (h.unpark _ _ hs) known (recordFits_opRecord (s := s.unpark e.port e.tag) live guard
          (eq_false_of_ne_true room))
    · exact h.renew _ _ _ _ hs
  case h_2 => exact hs

theorem Moves.cascadePass {l : List ParkEntry} (known : ∀ e ∈ l, K e.cell) (hs : I s) :
    I (Machine.cascadePass l s).state := by
  induction l generalizing s with
  | nil => exact hs
  | cons e rest ih =>
    exact ih (fun x hx => known x (List.mem_cons_of_mem _ hx)) (h.evalParked (known e List.mem_cons_self) hs)

theorem Moves.expireInCascade (c : CellIx) (n : Nat) (hs : I s) : I (Machine.expireInCascade c n s) := by
  induction n generalizing s with
  | zero => exact hs
  | succ n ih =>
    simp only [Machine.expireInCascade]
    split
    · exact hs
    · split
      · exact ih (h.endParked _ _ (h.choices _ hs))
      · exact h.choices _ hs

omit h in
theorem State.cell_of_mem_chain {c : CellIx} {e : ParkEntry} (he : e ∈ s.chain c) : e.cell = c := by
  simpa using (List.mem_filter.1 he).2

theorem Moves.cascadeStep {c : CellIx} (known : K c) {x : Evaluated} (hx : I x.state) :
    I (Machine.cascadeStep c x).state := by
  unfold Machine.cascadeStep
  split
  · exact h.expireInCascade _ _ (h.cascadePass (fun e he => by rwa [State.cell_of_mem_chain he]) hx)
  · exact hx

theorem Moves.cascadeSteps {c : CellIx} (known : K c) (n : Nat) {x : Evaluated} (hx : I x.state) :
    I (Machine.cascadeSteps c n x).state := by
  induction n generalizing x with
  | zero => exact hx
  | succ n ih => exact ih (h.cascadeStep known hx)

theorem Moves.runOut {c : CellIx} (known : K c) {x : Evaluated} (hx : I x.state) : I (x.runOut c).state :=
  h.cascadeSteps known _ hx

/-! #### The decisions of the UP ports -/

omit h in
/-- A Configuration Controller that keeps its votes, commit records, held requests and INIT_CELLS fits. -/
theorem State.configFits_of_le {k : ConfigCtl} (commits : ∀ p, k.commits.get p = none ∨ k.commits.get p = s.config.commits.get p)
    (votes : ∀ p, k.reopenVotes.get p = false ∨ k.reopenVotes.get p = s.config.reopenVotes.get p)
    (commitsHeld : ∀ x ∈ k.heldCommits, x ∈ s.config.heldCommits) (reopensHeld : ∀ x ∈ k.heldReopens, x ∈ s.config.heldReopens)
    (inits : ∀ i ∈ k.inits, F i.init) : s.ConfigFits F k :=
  ⟨fun p => (commits p).imp_right .inl, fun p => (votes p).imp_right .inl, fun x hx => .inl (commitsHeld x hx),
    fun x hx => .inl (reopensHeld x hx), inits⟩

theorem Moves.setCfgState (st : CfgState) (hs : I s) : I (s.modConfig (fun k => { k with state := st })) :=
  h.config hs (State.configFits_of_le (fun _ => .inr rfl) (fun _ => .inr rfl) (fun _ hx => hx) (fun _ hx => hx)
    (fun _ hi => h.flightKnown hs hi))

theorem Moves.answerCommits (body : RespBody) (hs : I s) : I (s.answerCommits body) :=
  h.replyHeld _ _ _ (h.config hs (State.configFits_of_le (fun _ => .inl (Four.get_all _ _)) (fun _ => .inr rfl)
    (fun _ hx => absurd hx List.not_mem_nil) (fun _ hx => hx) (fun _ hi => h.flightKnown hs hi)))

theorem Moves.goRun (hs : I s) : I s.goRun := h.raiseAll _ (h.answerCommits _ (h.setCfgState _ hs))

theorem Moves.testRun (hs : I s) : I s.testRun := by
  unfold State.testRun
  split
  · exact h.goRun hs
  · exact hs

theorem Moves.decideCommit (hs : I s) : I s.decideCommit := by
  unfold State.decideCommit
  split
  · exact h.answerCommits _ hs
  · exact h.testRun (h.setCfgState _ hs)

theorem Moves.withdrawAll (hs : I s) : I s.withdrawAll :=
  foldl_kept s.park (fun _ _ _ ht => h.replyUp _ _ _ _ ht) (h.unparkAll hs)

theorem Moves.answerReopens (hs : I s) : I s.answerReopens :=
  h.replyHeld _ _ _ (h.config hs (State.configFits_of_le (fun _ => .inr rfl) (fun _ => .inr rfl) (fun _ hx => hx)
    (fun _ hx => absurd hx List.not_mem_nil) (fun _ hi => h.flightKnown hs hi)))

theorem Moves.endDrain (hs : I s) : I s.endDrain := by
  have watched := h.clearWatches (h.withdrawAll hs)
  have setup := h.config (k := { s.withdrawAll.config with state := .setup, reopenVotes := Four.all false }) watched
    (State.configFits_of_le (fun _ => .inr rfl) (fun _ => .inl (Four.get_all _ _)) (fun _ hx => hx) (fun _ hx => hx)
      (fun _ hi => h.flightKnown watched hi))
  have unvoted := h.votes (v := Four.all false) (w := s.withdrawAll.refresh.heldWakes) setup
    ⟨fun _ => .inl (Four.get_all _ _), fun _ hx => .inl hx⟩
  exact h.raiseAll _ (h.answerReopens unvoted)

theorem Moves.testDrain (hs : I s) : I s.testDrain := by
  unfold State.testDrain
  split
  · exact h.endDrain hs
  · exact hs

theorem Moves.decideReopen (hs : I s) : I s.decideReopen := h.testDrain (h.setCfgState _ hs)

theorem Moves.testQuorums (hs : I s) : I s.testQuorums := by
  unfold State.testQuorums
  split
  · split
    · exact h.decideCommit hs
    · exact hs
  · split
    · exact h.decideReopen hs
    · exact hs
  · exact hs
  · exact hs

theorem Moves.testConfig (hs : I s) : I s.testConfig := by
  unfold State.testConfig
  split
  · exact h.testQuorums hs
  · exact h.testQuorums hs
  · exact h.testRun hs
  · exact h.testDrain hs

theorem Moves.enterRetention (active : s.refresh.power = .active) (hs : I s) : I s.enterRetention := by
  unfold State.enterRetention
  cases held : s.refresh.hold with
  | true =>
    simp only [State.modRefresh_refresh, held, if_true]
    exact h.testHeld (h.enterHeld hs active held)
  | false =>
    simp only [State.modRefresh_refresh, held, Bool.false_eq_true, if_false]
    exact h.testHeld (h.enterFree hs active held)

theorem Moves.testRetention (hs : I s) : I s.testRetention := by
  unfold State.testRetention
  split
  · rename_i due
    simp only [State.retentionDue, Bool.and_eq_true, beq_iff_eq] at due
    exact h.enterRetention due.2 hs
  · exact hs

/-! #### Teardown -/

theorem Moves.modTeardown (p : Port) (f : TeardownRec → TeardownRec) (hs : I s) : I (s.modTeardown p f) := by
  refine h.teardown hs (fun q => ?_)
  rw [Four.get_set]
  split
  · rename_i same
    rw [same, Option.isSome_map]
  · rfl

theorem Moves.joinUp {p : Port} (port : (s.hpu p).port = .linked ∨ (s.hpu p).port = .down)
    (alive : (s.hpu p).link = .alive) (hs : I s) : I (s.joinUp p) :=
  h.raiseOthers _ _ (h.goUp hs port alive)

theorem Moves.completeTeardown (p : Port) (hs : I s) : I (s.completeTeardown p) := by
  unfold State.completeTeardown
  split
  · exact hs
  · rename_i r active
    have told := h.raiseOthers p (.portCleared p r.restored r.released r.held) hs
    have record : (s.raiseOthers p (.portCleared p r.restored r.released r.held)).teardown.get p = some r := by
      rw [State.raiseOthers_frame]
      exact active
    refine h.testRetention (h.testQuorums ?_)
    simp only [State.leaveClearing]
    split
    · rename_i t held
      exact h.reply _ _ _ _ (h.raiseOthers _ _ (h.rejoin told record held))
    · rename_i held
      exact h.leave told record held

theorem Moves.issueRecovery {p : Port} {c : CellIx} (policy : LossPolicy) (default : Option Word) (known : K c) (hs : I s) :
    I (s.issueRecovery p c policy default) :=
  h.enqueue (h.modTeardown _ _ hs) known (fun i hi => by cases hi)

theorem Moves.walkCells {p : Port} {l : List CellIx} (known : ∀ c ∈ l, K c) (hs : I s) : I (Machine.walkCells p l s) := by
  induction l generalizing s with
  | nil => exact h.completeTeardown p hs
  | cons c rest ih =>
    unfold Machine.walkCells
    split
    · exact ih (fun x hx => known x (List.mem_cons_of_mem _ hx)) (h.modTeardown _ _ hs)
    · exact h.issueRecovery _ _ (known c List.mem_cons_self) hs
    · exact h.issueRecovery _ _ (known c List.mem_cons_self) hs

omit h in
/-- The cells a walk has still to take are listed for its port. -/
theorem State.mem_stamps_of_mem_untaken {p : Port} {c : CellIx} (hc : c ∈ s.untaken p) : c ∈ s.stamps.get p := by
  unfold State.untaken at hc
  split at hc
  · cases hc
  · exact List.mem_of_mem_filter hc

theorem Moves.walk (p : Port) (hs : I s) : I (s.walk p) :=
  h.walkCells (fun _ hc => h.stampedKnown hs (State.mem_stamps_of_mem_untaken hc)) (h.modTeardown _ _ hs)

theorem Moves.act (a : Act) (hs : I s) : I (a.run s) := by
  cases a with
  | walk p =>
    change I (if s.walkDue p then s.walk p else s)
    split
    · exact h.walk p hs
    · exact hs
  | config => exact h.testConfig hs
  | refresh => exact h.testOpportunity hs

theorem Moves.settle (hs : I s) : I s.settle := by
  unfold State.settle
  split
  · exact foldl_kept _ (fun _ a _ ht => h.act a ht) (h.choices _ hs)
  · exact foldl_kept _ (fun _ a _ ht => h.act a ht) hs

theorem Moves.noteEnded (b : Bank) (hs : I s) : I (s.noteEnded b) :=
  h.teardown hs (fun q => by rw [Four.get_map, Option.isSome_map])

theorem Moves.finishAccess (b : Bank) (hs : I s) : I (s.finishAccess b) := h.settle (h.noteEnded b (h.endAtBank b hs))

/-! #### Watches -/

theorem Moves.evalWatch (v : Word) (o : Option Port) (w : Watch) (hs : I s) : I (s.evalWatch v o w) := by
  have last := h.setLast w.id (triggerResult w.trigger v) hs
  unfold State.evalWatch
  split
  · split
    · exact h.removeWatch _ (h.raise _ _ last)
    · exact h.raise _ _ last
  · exact last

theorem Moves.evalWatches (c : CellIx) (hs : I s) : I (s.evalWatches c) := by
  unfold State.evalWatches
  split
  · exact foldl_kept _ (fun _ _ _ ht => h.evalWatch _ _ _ ht) hs
  · exact hs

theorem Moves.reportNow (w : Watch) (f : WatchFields) (v : Word) (o : Option Port) (hs : I s) : I (s.reportNow w f v o) := by
  unfold State.reportNow
  split
  · split
    · exact h.removeWatch _ (h.raise _ _ hs)
    · exact h.raise _ _ hs
  · exact hs

theorem Moves.fireLost (w : Watch) (hs : I s) : I (s.fireLost w) := by
  unfold State.fireLost
  split
  · exact h.removeWatch _ (h.raise _ _ hs)
  · exact h.setLast _ _ (h.raise _ _ hs)

/-! #### Accesses -/

omit h in
/-- A record whose owner is none fits any cell. -/
theorem State.recordFits_of_owner_none {c : CellIx} {r : CellRec} (none : r.owner = Option.none) : s.RecordFits c r :=
  fun p new => by simp [none] at new

theorem Moves.executed {p : Port} {c : CellIx} {op : OpFields} {v : Word} {o : Option Port} {r : Option Word} (t : Tag)
    (known : K c) (live : s.readCell c = .live v o r) (guard : guardHolds op p v o = true)
    (room : stampFull op.stamp o (s.stampCount p) = false) (hs : I s) : I (s.executed p t c op v o r).state :=
  h.putCell hs known (recordFits_opRecord live guard room)

theorem Moves.created {p : Port} {c : CellIx} {op : OpFields} (t : Tag) (known : K c)
    (room : stampFull op.stamp none (s.stampCount p) = false) (hs : I s) : I (s.created p t c op).state := by
  refine h.putCell hs known (fun q new _ => ?_)
  cases ha : op.stamp <;> simp [ha, CellRec.owner, ownerAfter] at new
  case stamp =>
    subst new
    change s.stampCount p < _
    simpa [stampFull, ha] using room

theorem Moves.openAccess {a : Access} {x : Evaluated} (known : K a.cell) (opens : s.openAccess a = some x) (hs : I s) :
    I x.state := by
  unfold State.openAccess at opens
  split at opens
  · split at opens
    · rename_i live
      simp only [Option.ite_none_right_eq_some, Bool.and_eq_true, Bool.not_eq_true', Option.some.injEq] at opens
      obtain ⟨⟨⟨guard, room⟩, -⟩, rfl⟩ := opens
      exact h.executed _ known live guard room hs
    · simp only [Option.ite_none_right_eq_some, Bool.and_eq_true, Bool.not_eq_true', Option.some.injEq] at opens
      obtain ⟨⟨-, room⟩, rfl⟩ := opens
      exact h.created _ known room hs
  · split at opens
    · simp only [Option.ite_none_right_eq_some, Option.some.injEq] at opens
      obtain ⟨-, rfl⟩ := opens
      exact h.putCell hs known (State.recordFits_of_owner_none rfl)
    · cases opens
  · cases opens

theorem Moves.closeAccess (b : Bank) (a : Access) {x : Evaluated} (hx : I x.state) : I (State.closeAccess b a x) := by
  have watched := h.evalWatches a.cell (h.handAll x.answers hx)
  unfold State.closeAccess
  simp only
  split
  · exact h.finishAccess b (h.walk _ (h.modTeardown _ _ watched))
  all_goals exact h.finishAccess b watched

theorem Moves.runAccess (b : Bank) {a : Access} {unchanging : State → State} (known : K a.cell)
    (otherwise : s.openAccess a = none → I (unchanging s)) (hs : I s) : I (s.runAccess b a unchanging) := by
  unfold State.runAccess
  split
  · rename_i opens
    exact h.closeAccess b a (h.runOut known (h.openAccess known opens hs))
  · rename_i none
    exact h.finishAccess b (otherwise none)

theorem Moves.performOperate {p : Port} {c : CellIx} (t : Tag) (op : OpFields) (known : K c) (hs : I s) :
    I (s.performOperate p t c op) := by
  unfold State.performOperate
  split
  · rename_i live
    split
    · rename_i guard
      unfold State.guardTrue
      split
      · exact h.replyUp _ _ _ _ hs
      · rename_i room
        exact h.handAll _ (h.executed t known live guard (by simpa using room) hs)
    · unfold State.guardFalse
      split
      · exact h.replyUp _ _ _ _ hs
      · split
        · exact hs
        · rename_i up
          split
          · rename_i free
            exact h.parkNow hs (by simpa [State.isUp] using up) free known
          · exact h.replyUp _ _ _ _ hs
  · exact h.replyUp _ _ _ _ hs

theorem Moves.performSetRecovery {p : Port} {c : CellIx} (t : Tag) (r : Option Word) (known : K c) (hs : I s) :
    I (s.performSetRecovery p t c r) := by
  unfold State.performSetRecovery
  split
  · rename_i live
    refine h.replyUp _ _ _ _ (h.putCell hs known (fun q new old => absurd ?_ old))
    rw [live]
    exact new
  · exact h.replyUp _ _ _ _ hs

theorem Moves.performWatch (p : Port) (t : Tag) (c : CellIx) (f : WatchFields) (hs : I s) : I (s.performWatch p t c f) := by
  unfold State.performWatch
  split
  · split
    · exact hs
    · rename_i up
      split
      · exact h.replyUp _ _ _ _ hs
      · rename_i room
        exact h.reportNow _ _ _ _ (h.replyUp _ _ _ _
          (h.addWatch _ _ _ hs (by simpa [State.isUp] using up) (by simpa using room)))
  · exact h.replyUp _ _ _ _ hs

omit h in
theorem InitFields.mem_covered {i : InitFields} {g c : CellIx} (hc : c ∈ i.covered g) :
    i.base ≤ c ∧ c < i.base + i.count := by
  simpa [InitFields.covered] using (List.mem_filter.1 hc).2

theorem Moves.writeGroup {i : InitFields} (g : CellIx) (known : F i) (hs : I s) : I (s.writeGroup i g) :=
  foldl_kept _ (fun _ _ hc ht =>
    h.putCell ht (h.inRangeKnown known (InitFields.mem_covered hc).1 (InitFields.mem_covered hc).2)
      (State.recordFits_of_owner_none rfl)) hs

theorem Moves.setInits {inits : List InitFlight} (known : ∀ i ∈ inits, F i.init) (hs : I s) :
    I (s.modConfig (fun k => { k with inits := inits })) :=
  h.config hs (State.configFits_of_le (fun _ => .inr rfl) (fun _ => .inr rfl) (fun _ hx => hx) (fun _ hx => hx) known)

theorem Moves.dropFlight (p : Port) (t : Tag) (hs : I s) : I (s.dropFlight p t) :=
  h.setInits (fun _ hi => h.flightKnown hs (List.mem_of_mem_filter hi)) hs

theorem Moves.advanceFlight (p : Port) (t : Tag) (next : CellIx) (hs : I s) : I (s.advanceFlight p t next) := by
  refine h.setInits (fun i hi => ?_) hs
  obtain ⟨j, hj, rfl⟩ := List.mem_map.1 hi
  have known := h.flightKnown hs hj
  split <;> exact known

theorem Moves.issueGroupWrite {i : InitFlight} (known : F i.init) (cell : K (max i.init.base i.nextGroup)) (hs : I s) :
    I (s.issueGroupWrite i) :=
  h.enqueue hs cell (fun j hj => by cases hj; exact known)

theorem Moves.reportGroupWrite (p : Port) (t : Tag) (g : CellIx) (hs : I s) : I (s.reportGroupWrite p t g) := by
  unfold State.reportGroupWrite
  split
  · exact hs
  · rename_i i found
    have known := h.flightKnown hs (List.mem_of_find?_eq_some found)
    split
    · exact h.dropFlight _ _ hs
    · split
      · exact h.replyUp _ _ _ _ (h.dropFlight _ _ hs)
      · rename_i more
        exact h.issueGroupWrite known (h.nextKnown known (not_lt.1 more)) (h.advanceFlight _ _ _ hs)

end

end Sys2Proof.Machine

namespace Sys2Proof.Machine

/-! ### What an access does to the ports

A cascade, and an access that comes along (R56, R58), reach a port's send list and leave its link and its state. -/

/-- Every port has the link and the port state it had. -/
def SamePorts (s t : State) : Prop := ∀ q, (t.hpu q).port = (s.hpu q).port ∧ (t.hpu q).link = (s.hpu q).link

theorem SamePorts.rfl' (s : State) : SamePorts s s := fun _ => ⟨rfl, rfl⟩

theorem SamePorts.trans {s t u : State} (h : SamePorts s t) (k : SamePorts t u) : SamePorts s u :=
  fun q => ⟨(k q).1.trans (h q).1, (k q).2.trans (h q).2⟩

theorem SamePorts.of_hpus {s t : State} (h : t.hpus = s.hpus) : SamePorts s t :=
  fun q => by simp [State.hpu, h]

theorem SamePorts.reply (p : Port) (kind : Byte) (t : Tag) (body : RespBody) (s : State) :
    SamePorts s (s.reply p kind t body) := by
  intro q
  by_cases same : q = p
  · subst same
    rw [State.reply, State.hpu_modHpu_same]
    split <;> exact ⟨rfl, rfl⟩
  · rw [State.reply, State.hpu_modHpu_other _ _ same]
    exact ⟨rfl, rfl⟩

theorem SamePorts.replyUp (p : Port) (kind : Byte) (t : Tag) (body : RespBody) (s : State) :
    SamePorts s (s.replyUp p kind t body) := by
  unfold State.replyUp
  split
  · exact .reply _ _ _ _ _
  · exact .rfl' s

theorem SamePorts.endParked (e : ParkEntry) (o : OpOutcome) (s : State) : SamePorts s (s.endParked e o) :=
  (SamePorts.of_hpus rfl).trans (.replyUp _ _ _ _ (s.unpark e.port e.tag))

theorem SamePorts.putCell (c : CellIx) (r : CellRec) (s : State) : SamePorts s (s.putCell c r) :=
  .of_hpus (by rw [State.putCell_frame])

theorem SamePorts.evalParked (e : ParkEntry) (s : State) : SamePorts s (s.evalParked e).state := by
  unfold State.evalParked
  split
  · split
    · split
      · exact .of_hpus rfl
      · exact (SamePorts.of_hpus (s := s) rfl).trans (.putCell _ _ (s.unpark e.port e.tag))
    · exact .of_hpus rfl
  · exact .rfl' s

theorem SamePorts.cascadePass (l : List ParkEntry) (s : State) : SamePorts s (cascadePass l s).state := by
  induction l generalizing s with
  | nil => exact .rfl' s
  | cons e rest ih => exact (SamePorts.evalParked e s).trans (ih _)

theorem SamePorts.expireInCascade (c : CellIx) (n : Nat) (s : State) : SamePorts s (expireInCascade c n s) := by
  induction n generalizing s with
  | zero => exact .rfl' s
  | succ n ih =>
    simp only [Machine.expireInCascade]
    split
    · exact .rfl' s
    · split
      · exact ((SamePorts.of_hpus (s := s) rfl).trans (.endParked _ _ { s with choices := s.choices + 1 })).trans (ih _)
      · exact .of_hpus rfl

theorem SamePorts.cascadeSteps (c : CellIx) (n : Nat) (x : Evaluated) : SamePorts x.state (cascadeSteps c n x).state := by
  induction n generalizing x with
  | zero => exact .rfl' _
  | succ n ih =>
    have one : SamePorts x.state (cascadeStep c x).state := by
      unfold cascadeStep
      split
      · exact (SamePorts.cascadePass _ _).trans (.expireInCascade _ _ _)
      · exact .rfl' _
    exact one.trans (ih _)

/-- The opening operation writes one cell. -/
theorem State.openAccess_state {a : Access} {s : State} {x : Evaluated} (opens : s.openAccess a = some x) :
    ∃ r, x.state = s.putCell a.cell r := by
  unfold State.openAccess at opens
  split at opens
  · split at opens
    all_goals
      simp only [Option.ite_none_right_eq_some, Option.some.injEq] at opens
      obtain ⟨-, rfl⟩ := opens
      exact ⟨_, rfl⟩
  · split at opens
    · simp only [Option.ite_none_right_eq_some, Option.some.injEq] at opens
      obtain ⟨-, rfl⟩ := opens
      exact ⟨_, rfl⟩
    · cases opens
  · cases opens

theorem SamePorts.openAccess {a : Access} {s : State} {x : Evaluated} (opens : s.openAccess a = some x) :
    SamePorts s x.state := by
  obtain ⟨r, left⟩ := State.openAccess_state opens
  rw [left]
  exact .putCell _ _ _

theorem SamePorts.comeTo (b : Bank) (a : Access) (passes entries : Nat) (x : Evaluated) :
    SamePorts x.state (comeTo b a passes entries x).1 :=
  (SamePorts.cascadeSteps a.cell passes x).trans (.cascadePass _ _)

/-- What an access does that comes along: nothing, or its opening operation and a part of its cascade. -/
theorem comeAlong_cases (x : State × List Underway) (b : Bank) :
    comeAlong x b = ({ x.1 with choices := x.1.choices + 2 }, x.2) ∨
      ∃ a y passes entries, ({ x.1 with choices := x.1.choices + 2 } : State).accessing b = some a ∧
        ({ x.1 with choices := x.1.choices + 2 } : State).openAccess a = some y ∧
        comeAlong x b = ((comeTo b a passes entries y).1, x.2 ++ [(comeTo b a passes entries y).2]) := by
  unfold comeAlong
  simp only
  split
  · rename_i accessing
    split
    · rename_i opens
      exact Or.inr ⟨_, _, _, _, accessing, opens, rfl⟩
    · exact Or.inl rfl
  · exact Or.inl rfl

theorem SamePorts.comeAlong (x : State × List Underway) (b : Bank) : SamePorts x.1 (comeAlong x b).1 := by
  obtain same | ⟨a, y, passes, entries, -, opens, along⟩ := comeAlong_cases x b
  · rw [same]
    exact .of_hpus rfl
  · rw [along]
    exact ((SamePorts.of_hpus (s := x.1) (t := { x.1 with choices := x.1.choices + 2 }) rfl).trans (.openAccess opens)).trans
      (.comeTo b a passes entries y)

theorem State.current_of_accessing {s : State} {b : Bank} {a : Access} (h : s.accessing b = some a) :
    (s.bank b).current = some a := by
  unfold State.accessing at h
  split at h
  · exact h
  · cases h

/-! ### Every command is made of the moves -/

section
variable {K : CellIx → Prop} {F : InitFields → Prop} {I : State → Prop} (h : Moves K F I) {s : State}
include h

/-! #### What falls inside an access -/

theorem Moves.goOn {x : Underway} (known : K x.access.cell) (rest : ∀ e ∈ x.rest, K e.cell) (hs : I s) :
    I (Machine.goOn s x) := by
  unfold Machine.goOn
  exact h.closeAccess _ _ (h.runOut known (h.expireInCascade _ _
    (h.cascadePass (fun e he => rest e (List.mem_of_mem_filter he)) hs)))

/-- An access underway speaks of known cells. -/
def Underway.Known (K : CellIx → Prop) (x : Underway) : Prop := K x.access.cell ∧ ∀ e ∈ x.rest, K e.cell

theorem Moves.comeAlong {x : State × List Underway} (b : Bank) (hx : I x.1 ∧ ∀ u ∈ x.2, u.Known K) :
    I (Machine.comeAlong x b).1 ∧ ∀ u ∈ (Machine.comeAlong x b).2, u.Known K := by
  have counted : I { x.1 with choices := x.1.choices + 2 } := h.choices _ hx.1
  obtain same | ⟨a, y, passes, entries, accessing, opens, along⟩ := comeAlong_cases x b
  · rw [same]
    exact ⟨counted, hx.2⟩
  · have known : K a.cell := (h.currentKnown counted (State.current_of_accessing accessing)).1
    have opened : I y.state := h.openAccess known opens counted
    have stepped : I (Machine.cascadeSteps a.cell passes y).state := h.cascadeSteps known _ opened
    have chain : ∀ e ∈ if (Machine.cascadeSteps a.cell passes y).changed then
        (Machine.cascadeSteps a.cell passes y).state.chain a.cell else [], K e.cell := by
      intro e he
      split at he
      · rwa [State.cell_of_mem_chain he]
      · cases he
    rw [along]
    refine ⟨h.cascadePass (fun e he => chain e (List.mem_of_mem_take he)) stepped, fun u hu => ?_⟩
    obtain hu | hu := List.mem_append.1 hu
    · exact hx.2 u hu
    · rw [List.mem_singleton.1 hu]
      exact ⟨known, fun e he => chain e (List.mem_of_mem_drop he)⟩

omit h in
theorem mem_inKeyOrder {α : Type} {key : α → Nat} {items : List α} {x : α} : x ∈ inKeyOrder key items ↔ x ∈ items := by
  have insert_mem (y : α) (l : List α) : x ∈ insertByKey key y l ↔ x = y ∨ x ∈ l := by
    induction l with
    | nil => simp [insertByKey]
    | cons z rest ih =>
      unfold insertByKey
      split
      · simp
      · simp only [List.mem_cons, ih]
        exact or_left_comm
  induction items with
  | nil => rfl
  | cons y rest ih =>
    exact (insert_mem y (inKeyOrder key rest)).trans ((or_congr_right ih).trans List.mem_cons.symm)

theorem Moves.inside {hit : ParkEntry → Bool} {happening : State → State}
    (kept : ∀ t, SamePorts s t → I t → I (happening t)) (hs : I s) : I (s.inside hit happening) := by
  unfold State.inside
  simp only
  split
  · exact kept s (.rfl' s) hs
  · have along (l : List Bank) (x : State × List Underway) (hx : I x.1 ∧ ∀ u ∈ x.2, u.Known K) (same : SamePorts s x.1) :
        (I (l.foldl Machine.comeAlong x).1 ∧ ∀ u ∈ (l.foldl Machine.comeAlong x).2, u.Known K) ∧
          SamePorts s (l.foldl Machine.comeAlong x).1 := by
      induction l generalizing x with
      | nil => exact ⟨hx, same⟩
      | cons b rest ih => exact ih _ (h.comeAlong b hx) (same.trans (.comeAlong x b))
    obtain ⟨⟨came, known⟩, same⟩ := along (inKeyOrder (fun b => Config.orderKey s.choices b.val) (allFour.filter (s.inAccess hit)))
      ({ s with choices := s.choices + 2 }, []) ⟨h.choices _ hs, fun _ hu => absurd hu List.not_mem_nil⟩ (.of_hpus rfl)
    exact foldl_kept _ (fun t u hu ht => h.goOn (known u (mem_inKeyOrder.1 hu)).1 (known u (mem_inKeyOrder.1 hu)).2 ht)
      (kept _ same came)

/-! #### Admission -/

theorem Moves.admitted (keep : Bool) (p : Port) (f : Frame) (hs : I s) : I (s.admitted keep p f) := by
  have framed := h.validFrame p hs
  have tagged := h.hpu (p := p)
    (k := { (s.hpu p).validFrame with tags := (s.hpu p).tags.set f.tag .outstanding, admission := none }) framed
    (by rw [State.receiveValid, State.hpu_modHpu_same]; exact ⟨rfl, rfl, rfl, .inl rfl, .inl rfl, .inl rfl⟩)
  have voted := h.votes (v := if keep then s.refresh.votes else s.refresh.votes.set p false) (w := s.refresh.heldWakes)
    tagged ⟨fun q => by
      cases keep
      · by_cases same : q = p
        · exact .inl (by simp [same])
        · exact .inr (.inl (by simp [same, State.receiveValid]))
      · exact .inr (.inl rfl), fun x hx => .inl hx⟩
  simpa [State.admitted, State.receiveValid, State.modHpu, State.modRefresh] using voted

/-- A frame that admission discards has acted on the link alone (R148, R152). -/
theorem Moves.unadmitted (p : Port) (hs : I s) :
    I { s with hpus := s.hpus.set p { (s.hpu p).validFrame with admission := none } } := by
  have staged := h.hpu (p := p) (k := { (s.hpu p).validFrame with admission := none }) (h.validFrame p hs)
    (by rw [State.receiveValid, State.hpu_modHpu_same]; exact ⟨rfl, rfl, rfl, .inl rfl, .inl rfl, .inl rfl⟩)
  simpa [State.receiveValid, State.modHpu] using staged

theorem Moves.handed {p : Port} (rs : List Response) (alive : (s.hpu p).link = .alive) (hs : I s) : I (s.handed p rs) :=
  h.hpu hs ⟨rfl, rfl, rfl, .inl rfl, .inl rfl, .inr alive⟩

/-! #### Requests -/

theorem Moves.cellKnown (f : Frame) : K f.cell := h.partKnown (Nat.mod_lt _ (by decide))

theorem Moves.enqueueCell (p : Port) (f : Frame) {w : Work} (host : ∀ i, w ≠ .groupWrite i) (hs : I s) :
    I (s.enqueue (cellAccess p f w)) :=
  h.enqueue hs (h.cellKnown f) (fun i hi => absurd hi (host i))

theorem Moves.tableWritten {g : RegionTable → RegionTable} (same : (g s.table).entries.length = s.table.entries.length)
    (hs : I s) : I (s.tableWritten g) :=
  h.answerCommits _ (h.table hs same)

omit h in
/-- A range that the field check of INIT_CELLS lets pass lies in the part (R134). -/
theorem Frame.initFields_fits {f : Frame} {i : InitFields} (hi : f.initFields = some i) : i.fits := by
  unfold Frame.initFields at hi
  simp only [Option.ite_none_right_eq_some, Option.some.injEq] at hi
  obtain ⟨⟨one, -, within⟩, rfl⟩ := hi
  exact ⟨one, within⟩

omit h in
theorem groupBase_le_lastCell {i : InitFields} (fits : i.fits) : groupBase i.base ≤ i.lastCell := by
  have one := fits.1
  change @LE.le Nat _ (i.base - i.base % 16) (i.base + i.count - 1)
  omega

theorem Moves.serveInitCells (p : Port) (f : Frame) (hs : I s) : I (Machine.serveInitCells p f s) := by
  unfold Machine.serveInitCells
  split
  · rename_i i fields
    have known : F i := h.fitsKnown (Frame.initFields_fits fields)
    refine h.issueGroupWrite known (h.nextKnown known (groupBase_le_lastCell (Frame.initFields_fits fields)))
      (h.setInits (fun j hj => ?_) hs)
    obtain hj | hj := List.mem_append.1 hj
    · exact h.flightKnown hs hj
    · rw [List.mem_singleton.1 hj]
      exact known
  · exact hs

omit h in
theorem mem_holdRequest {p : Port} {t : Tag} {held : List (Port × Tag)} {x : Port × Tag} (hx : x ∈ holdRequest p t held) :
    x ∈ held ∨ x = (p, t) :=
  (List.mem_append.1 hx).imp List.mem_of_mem_filter List.mem_singleton.1

omit h in
/-- One more entry set for an UP port fits. -/
theorem set_fits {α : Type} {x : Four α} {p : Port} {v none : α} (up : (s.hpu p).port = .up) (q : Port) :
    (x.set p v).get q = none ∨ (x.set p v).get q = x.get q ∨ (s.hpu q).port = .up := by
  by_cases same : q = p
  · exact .inr (.inr (same ▸ up))
  · exact .inr (.inl (Four.get_set_other _ _ same))

theorem Moves.serveCommit {p : Port} (f : Frame) (up : (s.hpu p).port = .up) (hs : I s) :
    I (Machine.serveCommit p f s) := by
  unfold Machine.serveCommit
  split
  · refine h.testConfig (h.replyHeld _ _ _ (h.config hs ⟨set_fits up, fun _ => .inr (.inl rfl), fun x hx => ?_,
      fun _ hx => .inl hx, fun _ hi => h.flightKnown hs hi⟩))
    exact (mem_holdRequest hx).imp_right (fun same => by rw [same]; exact up)
  · exact h.answer _ _ _ _ hs

theorem Moves.holdReopen {p : Port} (t : Tag) (up : (s.hpu p).port = .up) (hs : I s) : I (s.holdReopen p t) := by
  refine h.replyHeld _ _ _ (h.config hs ⟨fun _ => .inr (.inl rfl), fun _ => .inr (.inl rfl), fun _ hx => .inl hx,
    fun x hx => ?_, fun _ hi => h.flightKnown hs hi⟩)
  exact (mem_holdRequest hx).imp_right (fun same => by rw [same]; exact up)

theorem Moves.serveReopen {p : Port} (f : Frame) (up : (s.hpu p).port = .up) (hs : I s) :
    I (Machine.serveReopen p f s) := by
  unfold Machine.serveReopen
  split
  · exact h.testConfig (h.holdReopen _ up (h.config hs ⟨fun _ => .inr (.inl rfl), set_fits up, fun _ hx => .inl hx,
      fun _ hx => .inl hx, fun _ hi => h.flightKnown hs hi⟩))
  · exact h.holdReopen _ up hs

theorem Moves.serveStay {p : Port} (f : Frame) (up : (s.hpu p).port = .up) (hs : I s) : I (Machine.serveStay p f s) := by
  unfold Machine.serveStay
  split
  · exact h.answer _ _ _ _ (h.replyHeld _ _ _ (h.config hs ⟨fun _ => .inr (.inl rfl), set_fits up, fun _ hx => .inl hx,
      fun _ hx => .inl (List.mem_of_mem_filter hx), fun _ hi => h.flightKnown hs hi⟩))
  · exact h.answer _ _ _ _ hs

theorem Moves.holdWake {p : Port} (t : Tag) (up : (s.hpu p).port = .up) (hs : I s) : I (s.holdWake p t) := by
  refine h.votes hs ⟨fun _ => .inr (.inl rfl), fun x hx => ?_⟩
  exact (List.mem_append.1 hx).imp_right (fun same => by rw [List.mem_singleton.1 same]; exact up)

theorem Moves.serveWake {p : Port} (f : Frame) (up : (s.hpu p).port = .up) (hs : I s) : I (Machine.serveWake p f s) := by
  unfold Machine.serveWake
  split
  · exact h.answer _ _ _ _ hs
  · rename_i retained
    exact h.startExit (h.holdWake _ up hs) retained
  · exact h.holdWake _ up hs
  · exact h.holdWake _ up hs

theorem Moves.takeCancel (p : Port) (f : Frame) (hs : I s) : I (Machine.takeCancel p f s) := by
  unfold Machine.takeCancel
  split
  · exact h.answer _ _ _ _ (h.endParked _ _ hs)
  · exact h.answer _ _ _ _ hs

theorem Moves.serveJoin {p : Port} (f : Frame) (alive : (s.hpu p).link = .alive) (hs : I s) :
    I (Machine.serveJoin p f s) := by
  unfold Machine.serveJoin
  split
  · exact h.answer _ _ _ _ hs
  · rename_i clearing
    simp only
    split
    · refine h.holdJoin _ (h.reply _ _ _ _ hs) ?_ ?_
      · rw [(SamePorts.reply _ _ _ _ _ p).1, clearing]
      · rw [(SamePorts.reply _ _ _ _ _ p).2, alive]
    · exact h.holdJoin _ hs clearing alive
  · rename_i linked
    exact h.answer _ _ _ _ (h.joinUp (.inl linked) alive hs)
  · rename_i down
    exact h.answer _ _ _ _ (h.joinUp (.inr down) alive hs)

theorem Moves.departing {p : Port} (f : Frame) (up : (s.hpu p).port = .up) (hs : I s) : I (Machine.serveLeave p f s) :=
  h.inside (fun t same ht => h.settle (h.clear _ (h.answer _ _ _ _ ht)
    ((SamePorts.reply p _ _ _ t p).1.trans ((same p).1.trans up)))) hs

/-- What every admitted request keeps. Checks 3 and 4 of admission leave a port that is not UP only JOIN and STATUS
(R153). -/
theorem Moves.serveOf {k : Kind} {p : Port} (f : Frame) (alive : (s.hpu p).link = .alive)
    (admissible : k = .join ∨ k = .status ∨ (s.hpu p).port = .up) (hs : I s) : I (serveOf k p f s) := by
  cases k with
  | operate =>
    change I (serveOperate p f s)
    unfold serveOperate
    split
    · exact h.enqueueCell _ _ (fun _ => nofun) hs
    · exact hs
  | groupRead => exact h.enqueueCell _ _ (fun _ => nofun) hs
  | setRecovery => exact h.enqueueCell _ _ (fun _ => nofun) hs
  | cancel => exact h.inside (fun t _ ht => h.takeCancel p f ht) hs
  | watch =>
    change I (serveWatch p f s)
    unfold serveWatch
    split
    · exact h.enqueueCell _ _ (fun _ => nofun) hs
    · exact hs
  | unwatch =>
    change I (serveUnwatch p f s)
    unfold serveUnwatch
    split
    · exact h.answer _ _ _ _ (h.removeWatch _ hs)
    · exact h.answer _ _ _ _ hs
  | fetchEvents => exact h.answer _ _ _ _ (h.fetch _ _ hs)
  | attnOn => exact h.answer _ _ _ _ (h.attention _ hs (by simpa using admissible))
  | attnOff => exact h.answer _ _ _ _ (h.attention _ hs (by simpa using admissible))
  | quiesce =>
    exact h.answer _ _ _ _ (h.votes hs ⟨set_fits (by simpa using admissible), fun _ hx => .inl hx⟩)
  | wake => exact h.serveWake f (by simpa using admissible) hs
  | writeRegion =>
    change I (serveWriteRegion p f s)
    unfold serveWriteRegion
    split
    · exact h.answer _ _ _ _ (h.tableWritten (List.length_set ..) hs)
    · exact hs
  | readRegion => exact h.answer _ _ _ _ hs
  | writeSettings =>
    change I (serveWriteSettings p f s)
    unfold serveWriteSettings
    split
    · exact h.answer _ _ _ _ (h.tableWritten rfl hs)
    · exact hs
  | initCells => exact h.serveInitCells p f hs
  | commit => exact h.serveCommit f (by simpa using admissible) hs
  | reopen => exact h.serveReopen f (by simpa using admissible) hs
  | stay => exact h.serveStay f (by simpa using admissible) hs
  | join => exact h.serveJoin f alive hs
  | leave => exact h.departing f (by simpa using admissible) hs
  | status => exact h.answer _ _ _ _ hs

omit h in
/-- A request that no check refuses is a JOIN, a STATUS, or its port is UP (R153). -/
theorem up_of_refusal_none {k : Kind} {p : Port} {f : Frame} (passes : s.refusal k p f = none) :
    k = .join ∨ k = .status ∨ (s.hpu p).port = .up := by
  have check : portCheck k (s.hpu p).port = none := by
    unfold State.refusal at passes
    cases found : portCheck k (s.hpu p).port with
    | none => rfl
    | some st => simp [found] at passes
  cases port : (s.hpu p).port with
  | up => exact .inr (.inr rfl)
  | down => simp [port, portCheck] at check
  | linked =>
    simp only [port, portCheck, ite_eq_left_iff, reduceCtorEq, imp_false, not_not] at check
    exact check.imp_right .inl
  | clearing =>
    simp only [port, portCheck, ite_eq_left_iff, reduceCtorEq, imp_false, not_not] at check
    exact check.imp_right .inl

theorem Moves.receiveRequest (k : Kind) (p : Port) (f : Frame) (hs : I s) :
    I (s.receiveRequest k p f (Machine.serveOf k p f)) := by
  obtain ⟨-, same⟩ | ⟨-, -, same⟩ | ⟨st, -, -, -, same⟩ | ⟨-, -, passes, same⟩ :=
    State.receiveRequest_cases k p f (Machine.serveOf k p f) s
  all_goals rw [same]
  · exact h.raise _ _ (h.validFrame p hs)
  · exact h.raise _ _ (h.unadmitted p hs)
  · exact h.handed _ (State.admitted_alive _ _ _ _) (h.admitted _ _ _ hs)
  · refine h.serveOf f (State.admitted_alive _ _ _ _) ?_ (h.admitted _ _ _ hs)
    have port : ((s.admitted (keepsVote k) p f).hpu p).port = ((s.receiveValid p).hpu p).port := by
      simp [State.receiveValid]
    rw [port]
    exact up_of_refusal_none passes

theorem Moves.receiveUnknown (p : Port) (code : Byte) (f : Frame) (hs : I s) : I (s.receiveUnknown p code f) := by
  unfold State.receiveUnknown
  simp only
  split
  · cases tag : s.tagState p f.tag with
    | free =>
      rw [State.admit_free _ _ _ tag]
      exact h.handed _ (State.admitted_alive _ _ _ _) (h.admitted _ _ _ hs)
    | outstanding =>
      rw [State.admit_inUse _ _ _ tag]
      exact h.raise _ _ (h.unadmitted p hs)
  · exact h.raise _ _ (h.validFrame p hs)

/-! #### Happenings -/

theorem Moves.loseLink (p : Port) (hs : I s) : I (s.loseLink p) := by
  have lost (other : (s.hpu p).port ≠ .up) : I (s.modHpu p Hpu.lostLink) := h.lostLink hs other
  unfold State.loseLink
  simp only
  split
  · rename_i linked
    refine h.testRetention ?_
    rw [State.modHpu_modHpu]
    have same : (s.modHpu p Hpu.lostLink) = s.modHpu p (fun k => { k.loseLink with port := .down }) := by
      change (s.hpus.get p).port = _ at linked
      simp [State.modHpu, Hpu.lostLink, linked]
    rw [← same]
    exact lost (by simp [linked])
  · rename_i up
    exact h.inside (fun t same ht => h.settle (h.clearLost _ ht ((same p).1.trans up))) hs
  all_goals
    rename_i other
    have same : (s.modHpu p Hpu.lostLink) = s.modHpu p Hpu.loseLink := by
      change (s.hpus.get p).port = _ at other
      simp [State.modHpu, Hpu.lostLink, Hpu.loseLink, other]
    rw [← same]
    exact lost (by simp [other])

theorem Moves.raiseDebt (counts : s.refresh.power = .active ∨ s.refresh.power = .entering)
    (room : s.refresh.debt < Config.debtCap) (hs : I s) : I s.raiseDebt := by
  unfold State.raiseDebt
  simp only
  split
  · exact h.placeHold (h.owe hs counts room)
  · exact h.testOpportunity (h.owe hs counts room)

theorem Moves.overrunNow (hs : I s) : I s.overrunNow := by
  unfold State.overrunNow
  simp only
  split
  · exact h.testOpportunity (h.overrun hs)
  · exact h.testOpportunity (h.raiseAll _ (h.overrun hs))

theorem Moves.intervalExpiry (hs : I s) : I s.intervalExpiry := by
  have begun : I s.beginInterval := h.interval _ hs
  have counted (counts : s.refresh.power = .active ∨ s.refresh.power = .entering) :
      I (if s.beginInterval.refresh.debt < Config.debtCap then s.beginInterval.raiseDebt else s.beginInterval.overrunNow) := by
    split
    · rename_i room
      exact h.raiseDebt counts room begun
    · exact h.overrunNow begun
  unfold State.intervalExpiry
  simp only
  split
  · rename_i active
    exact counted (.inl active)
  · rename_i entering
    exact counted (.inr entering)
  · exact begun
  · exact begun

theorem Moves.endRefresh (refreshing : s.refresh.refreshing = true) (hs : I s) : I s.endRefresh := by
  have ended := h.refreshOver hs refreshing
  change I (match s.refreshOver.refresh.power with
    | .active => s.refreshOver.afterRefresh
    | .entering | .retained | .waking => s.refreshOver.testPlacingStart)
  split
  · rename_i active
    unfold State.afterRefresh
    split
    · exact h.refreshAgain hs refreshing active
    · split
      · exact h.refreshAgain hs refreshing active
      · exact h.testOpportunity (h.refreshLift hs refreshing active)
  all_goals exact h.testPlacingStart ended

omit h in
/-- A CELL_LOST firing changes the Watch Table and the event queues alone. -/
theorem State.fireLost_frame (w : Watch) (s : State) :
    s.fireLost w = { s with watches := (s.fireLost w).watches, events := (s.fireLost w).events } := by
  unfold State.fireLost
  rw [State.raise_frame]
  split <;> rfl

omit h in
theorem State.fireLosts_refresh (ws : List Watch) (s : State) :
    (ws.foldl (fun t w => t.fireLost w) s).refresh = s.refresh := by
  induction ws generalizing s with
  | nil => rfl
  | cons w rest ih => rw [List.foldl_cons, ih, State.fireLost_frame]

theorem Moves.completeEntry {mask : BitVec 4} (entering : s.refresh.power = .entering)
    (placing : s.refresh.placing = some mask) (hs : I s) : I (s.completeEntry mask) := by
  have fired : I ((s.watchesLost mask).foldl (fun t w => t.fireLost w) (s.loseCells mask)) :=
    foldl_kept _ (fun _ _ _ ht => h.fireLost _ ht) (h.loseCells mask hs)
  have refresh := State.fireLosts_refresh (s.watchesLost mask) (s.loseCells mask)
  have retained := h.raiseAll .retaining
    (h.setRetained fired (by rw [refresh]; exact entering) (by rw [refresh]; exact placing))
  unfold State.completeEntry
  simp only
  split
  · exact retained
  · refine h.startExit retained ?_
    obtain ⟨events, told⟩ := State.raises_frame allFour .retaining
      (State.setRetained mask ((s.watchesLost mask).foldl (fun t w => t.fireLost w) (s.loseCells mask)))
    rw [State.raiseAll, told]
    rfl

theorem Moves.endExit (waking : s.refresh.power = .waking) (hs : I s) : I s.endExit :=
  h.raiseAll _ (h.replyHeld _ _ _ (h.votes (w := []) (h.wakeBanks hs waking)
    ⟨fun _ => .inr (.inl rfl), fun _ hx => absurd hx List.not_mem_nil⟩))

/-- Every command keeps what the moves keep. -/
theorem Moves.exec {i : Instr} {t : State} (run : exec i s = .next t) (hs : I s) : I t := by
  have released {work : State → State} (run : whileReleased s work = .next t) (kept : I (work s)) : I t := by
    unfold whileReleased at run
    cases run
    split
    · exact kept
    · exact hs
  have requested {k : Kind} {p : Port} {f : Frame}
      (run : whileReleased s (fun s => s.receiveRequest k p f (Machine.serveOf k p f)) = .next t) : I t :=
    released run (h.receiveRequest k p f hs)
  have accessed {b : Bank} {a : Access} (at_ : s.accessing b = some a) :=
    h.currentKnown hs (State.current_of_accessing at_)
  cases i with
  | operate p f => exact requested (k := .operate) run
  | groupRead p f => exact requested (k := .groupRead) run
  | setRecovery p f => exact requested (k := .setRecovery) run
  | cancel p f => exact requested (k := .cancel) run
  | watch p f => exact requested (k := .watch) run
  | unwatch p f => exact requested (k := .unwatch) run
  | fetchEvents p f => exact requested (k := .fetchEvents) run
  | attnOn p f => exact requested (k := .attnOn) run
  | attnOff p f => exact requested (k := .attnOff) run
  | quiesce p f => exact requested (k := .quiesce) run
  | wake p f => exact requested (k := .wake) run
  | writeRegion p f => exact requested (k := .writeRegion) run
  | readRegion p f => exact requested (k := .readRegion) run
  | writeSettings p f => exact requested (k := .writeSettings) run
  | initCells p f => exact requested (k := .initCells) run
  | commit p f => exact requested (k := .commit) run
  | reopen p f => exact requested (k := .reopen) run
  | stay p f => exact requested (k := .stay) run
  | join p f => exact requested (k := .join) run
  | leave p f => exact requested (k := .leave) run
  | status p f => exact requested (k := .status) run
  | badKind p code f =>
    refine released run ?_
    split
    · exact h.receiveUnknown p code f hs
    · exact hs
  | idleFrame p f =>
    change execIdleFrame p f s = _ at run
    unfold execIdleFrame at run
    refine released run ?_
    simp only
    split
    · exact h.validFrame p hs
    · exact h.raise _ _ (h.validFrame p hs)
  | frameCheck p words =>
    change execFrameCheck p words s = _ at run
    unfold execFrameCheck at run
    refine released run ?_
    split
    · exact hs
    · exact h.raise _ _ hs
  | linkLoss p =>
    refine released run ?_
    split
    · exact h.loseLink p hs
    · exact hs
  | sendIdle p =>
    refine released run ?_
    split
    · rename_i alive
      exact h.hpu hs ⟨rfl, rfl, rfl, .inl rfl, .inr ⟨by simpa [State.isAlive] using alive, rfl⟩, .inl rfl⟩
    · exact hs
  | responseSent p =>
    refine released run ?_
    split
    · rename_i sends
      have alive : (s.hpu p).link = .alive := by simpa [State.isAlive] using (Bool.and_eq_true_iff.1 sends).1
      refine h.testRetention (h.hpu hs ?_)
      change (s.hpu p).Alike (s.hpu p).sendFirst
      unfold Hpu.sendFirst
      split
      · exact ⟨rfl, rfl, rfl, .inl rfl, .inl rfl, .inl rfl⟩
      · exact ⟨rfl, rfl, rfl, .inl rfl, .inr ⟨alive, rfl⟩, .inr alive⟩
    · exact hs
  | deviceReset =>
    cases run
    exact h.reset hs
  | resetRelease =>
    cases run
    split
    · exact hs
    · exact h.release hs
  | refreshIntervalExpiry =>
    refine released run ?_
    split
    · exact h.intervalExpiry hs
    · exact hs
  | parkExpiry p tag =>
    change execParkExpiry p tag s = _ at run
    unfold execParkExpiry at run
    refine released run ?_
    split
    · split
      · exact h.endParked _ _ hs
      · exact hs
    · exact hs
  | bankPick b => exact released run (h.pickBank b hs)
  | rowCloseEnd b =>
    refine released run ?_
    split
    · rename_i closing
      exact h.testHeld (h.pickBank b (h.closeEnded hs closing))
    · exact hs
  | rowOpenEnd b => exact released run (h.openEnded b hs)
  | operateAccess b =>
    change execOperateAccess b s = _ at run
    unfold execOperateAccess at run
    refine released run ?_
    split
    · rename_i at_
      exact h.runAccess b (accessed at_).1 (fun _ => h.performOperate _ _ (accessed at_).1 hs) hs
    · exact hs
  | groupReadAccess b =>
    change execGroupReadAccess b s = _ at run
    unfold execGroupReadAccess at run
    refine released run ?_
    split
    · exact h.finishAccess b (h.replyUp _ _ _ _ hs)
    · exact hs
  | setRecoveryAccess b =>
    change execSetRecoveryAccess b s = _ at run
    unfold execSetRecoveryAccess at run
    refine released run ?_
    split
    · rename_i at_
      exact h.finishAccess b (h.performSetRecovery _ _ (accessed at_).1 hs)
    · exact hs
  | watchAccess b =>
    change execWatchAccess b s = _ at run
    unfold execWatchAccess at run
    refine released run ?_
    split
    · exact h.finishAccess b (h.performWatch _ _ _ _ hs)
    · exact hs
  | groupWrite b =>
    change execGroupWrite b s = _ at run
    unfold execGroupWrite at run
    refine released run ?_
    split
    · rename_i at_
      exact h.finishAccess b (h.reportGroupWrite _ _ _ (h.writeGroup _ ((accessed at_).2 _ rfl) hs))
    · exact hs
  | recoveryAccess b =>
    change execRecoveryAccess b s = _ at run
    unfold execRecoveryAccess at run
    refine released run ?_
    split
    · rename_i at_
      exact h.runAccess b (accessed at_).1 (fun _ => h.walk _ hs) hs
    · exact hs
  | teardownWalkStart p =>
    refine released run ?_
    split
    · exact h.walk p hs
    · exact hs
  | teardownComplete p =>
    refine released run ?_
    split
    · exact h.completeTeardown p hs
    · exact hs
  | stepToRun => exact released run (h.testRun hs)
  | drainEnd => exact released run (h.testDrain hs)
  | refreshStart => exact released run (h.testRefreshStart hs)
  | refreshEnd =>
    refine released run ?_
    split
    · rename_i refreshing
      exact h.endRefresh refreshing hs
    · exact hs
  | retentionDecision => exact released run (h.testRetention hs)
  | retentionPlacingStart => exact released run (h.testPlacingStart hs)
  | retentionEntry =>
    change execRetentionEntry s = _ at run
    unfold execRetentionEntry at run
    refine released run ?_
    split
    · rename_i entering placing
      exact h.completeEntry entering placing hs
    · exact hs
  | retentionExitEnd =>
    refine released run ?_
    split
    · rename_i waking
      exact h.endExit (by simpa using waking) hs
    · exact hs

end

section
variable {K : CellIx → Prop} {F : InitFields → Prop} {I : State → Prop} (h : TimedMoves K F I) {s : State}
include h

theorem TimedMoves.tick (hs : I s) : I s.tick := by
  unfold State.tick
  split
  · have advanced := h.advance hs
    simp only
    split
    · exact h.pending _ advanced
    · exact h.pending _ (h.choices (s.advance.choices + 1) advanced)
  · exact h.clock _ hs

/-- A predicate that every move keeps is kept by every step. -/
theorem TimedMoves.step {t : State} (hs : I s) (run : step s = .next t) : I t := by
  unfold Machine.step at run
  split at run
  · cases run
    exact h.tick hs
  · exact h.toMoves.exec run (h.pending _ hs)

end

end Sys2Proof.Machine

namespace Sys2Proof.Machine

/-! ### What the moves leave to each block -/

/-- A teardown start, block by block; its events are those of PORT_LOST (R160). -/
theorem State.clearPort_frame (p : Port) (reason : LossReason) (s : State) :
    s.clearPort p reason =
      { s with
        hpus := s.hpus.set p (s.hpu p).startTeardown
        teardown := s.teardown.set p (some (startRecord reason s.banks))
        banks := s.banks.map (BankCtl.dropPort p)
        config := s.config.dropPort p (fun i => s.groupWriteCurrent p i.tag)
        park := s.park.filter (fun e => e.port != p)
        watches := s.watches.filter (fun w => w.port != p)
        events := (s.clearPort p reason).events
        refresh := s.refresh.dropPort p } := by
  unfold State.clearPort
  simp only
  rw [State.raiseOthers_frame]
  rfl

theorem State.setRetained_bank (mask : BitVec 4) (s : State) (b : Bank) :
    (s.setRetained mask).bank b = retainedBank (mask.getLsbD b.val) (s.bank b) := by
  fin_cases b <;> rfl

theorem State.bank_map {s t : State} {f : BankCtl → BankCtl} (h : t.banks = s.banks.map f) (b : Bank) :
    t.bank b = f (s.bank b) := by
  simp [State.bank, h]

theorem State.bank_set {s t : State} {b : Bank} {k : BankCtl} (h : t.banks = s.banks.set b k) (d : Bank) :
    t.bank d = if d = b then k else s.bank d := by
  simp [State.bank, h, Four.get_set]

/-! ### What the bank controllers hold

A bank's work on its queue and current access drops accesses, moves them and raises bypass counts; it makes none. -/

/-- The pick takes one entry out of the queue and counts a bypass for every older one; when there is an older one, the
oldest had a count below 4 (R87). -/
theorem chooseAccess_cases {st : BankState} {l rest : List Access} {a : Access} (h : chooseAccess st l = some (a, rest)) :
    ∃ older younger, l = older ++ a :: younger ∧
      rest = older.map (fun x => { x with bypass := x.bypass + 1 }) ++ younger ∧
      ∀ x ∈ older.head?, x.bypass < Config.bypassCap := by
  have split_hit {row : Nat} {l rest : List Access} {a : Access} (h : splitHit row l = some (a, rest)) :
      ∃ older younger, l = older ++ a :: younger ∧
        rest = older.map (fun x => { x with bypass := x.bypass + 1 }) ++ younger := by
    induction l generalizing rest with
    | nil => cases h
    | cons x tail ih =>
      unfold splitHit at h
      split at h
      · cases h
        exact ⟨[], tail, rfl, rfl⟩
      · obtain ⟨⟨y, left⟩, found, same⟩ := Option.map_eq_some_iff.1 h
        cases same
        obtain ⟨older, younger, rfl, rfl⟩ := ih found
        exact ⟨x :: older, younger, rfl, rfl⟩
  cases l with
  | nil => cases h
  | cons x tail =>
    have oldest : ∃ older younger, x :: tail = older ++ x :: younger ∧
        tail = older.map (fun x => { x with bypass := x.bypass + 1 }) ++ younger ∧
        ∀ x ∈ older.head?, x.bypass < Config.bypassCap := by
      refine ⟨[], tail, rfl, rfl, fun y hy => ?_⟩
      cases hy
    simp only [chooseAccess] at h
    split at h
    · rename_i row
      split at h
      · rename_i young
        cases hit : splitHit row (x :: tail) with
        | none =>
          rw [hit] at h
          cases h
          exact oldest
        | some y =>
          obtain ⟨z, left⟩ := y
          simp only [hit, Option.getD_some, Option.some.injEq, Prod.mk.injEq] at h
          obtain ⟨rfl, rfl⟩ := h
          obtain ⟨older, younger, whole, left⟩ := split_hit hit
          refine ⟨older, younger, whole, left, fun w hw => ?_⟩
          cases older with
          | nil => cases hw
          | cons v more =>
            obtain rfl : v = w := Option.some.inj hw
            exact (List.cons.inj whole).1 ▸ young
      · cases h
        exact oldest
    · cases h
      exact oldest

/-- A predicate that holds of every access queued or current at a bank. -/
def BankCtl.Holds (P : Access → Prop) (k : BankCtl) : Prop := (∀ a ∈ k.queue, P a) ∧ ∀ a ∈ k.current.toList, P a

section
variable {P : Access → Prop} {k : BankCtl}

theorem BankCtl.Holds.sub {k' : BankCtl} (h : k.Holds P) (queue : ∀ a ∈ k'.queue, a ∈ k.queue)
    (current : k'.current = k.current ∨ k'.current = none) : k'.Holds P := by
  refine ⟨fun a ha => h.1 a (queue a ha), fun a ha => ?_⟩
  obtain same | none := current
  · exact h.2 a (same ▸ ha)
  · simp [none] at ha

/-- What a free bank becomes at its pick: as it was, or with an entry taken out of its queue. -/
theorem BankCtl.pick_cases (k : BankCtl) :
    k.pick = k ∨ ∃ a rest, k.free = true ∧ chooseAccess k.state k.queue = some (a, rest) ∧
      k.pick = { state := stateForPick k.state a, current := some a, queue := rest } := by
  unfold BankCtl.pick
  split
  · rename_i free
    split
    · rename_i a rest chosen
      exact Or.inr ⟨a, rest, free, chosen, rfl⟩
    · exact Or.inl rfl
  · exact Or.inl rfl

theorem BankCtl.Holds.pick (bypass : ∀ a n, P a → P { a with bypass := n }) (h : k.Holds P) : k.pick.Holds P := by
  obtain same | ⟨a, rest, -, chosen, picked⟩ := k.pick_cases
  · rwa [same]
  · obtain ⟨older, younger, whole, left, -⟩ := chooseAccess_cases chosen
    rw [picked]
    refine ⟨fun x hx => ?_, fun x hx => ?_⟩
    · rw [left, List.mem_append, List.mem_map] at hx
      obtain ⟨y, hy, rfl⟩ | hx := hx
      · exact bypass _ _ (h.1 y (by simp [whole, hy]))
      · exact h.1 x (by simp [whole, hx])
    · have : x = a := by simpa [eq_comm] using hx
      exact h.1 x (by simp [whole, this])

theorem BankCtl.afterAccess_queue (hold : Bool) (page : PagePolicy) (k : BankCtl) :
    (k.afterAccess hold page).queue = k.queue := by
  unfold BankCtl.afterAccess
  split
  · split <;> rfl
  · rfl

theorem BankCtl.afterAccess_current (hold : Bool) (page : PagePolicy) (k : BankCtl) :
    (k.afterAccess hold page).current = k.current ∨ (k.afterAccess hold page).current = none := by
  unfold BankCtl.afterAccess
  split
  · split <;> exact .inr rfl
  · exact .inl rfl

theorem BankCtl.holdPlaced_queue (k : BankCtl) : k.holdPlaced.queue = k.queue := by
  unfold BankCtl.holdPlaced
  split <;> rfl

theorem BankCtl.holdPlaced_current (k : BankCtl) : k.holdPlaced.current = k.current := by
  unfold BankCtl.holdPlaced
  split <;> rfl

theorem BankCtl.closeEnded_queue (k : BankCtl) : k.closeEnded.queue = k.queue := by
  unfold BankCtl.closeEnded
  split <;> rfl

theorem BankCtl.closeEnded_current (k : BankCtl) : k.closeEnded.current = k.current := by
  unfold BankCtl.closeEnded
  split <;> rfl

theorem BankCtl.openEnded_queue (k : BankCtl) : k.openEnded.queue = k.queue := by
  unfold BankCtl.openEnded
  split <;> rfl

theorem BankCtl.openEnded_current (k : BankCtl) : k.openEnded.current = k.current := by
  unfold BankCtl.openEnded
  split <;> rfl

theorem BankCtl.Holds.sameQueue {k' : BankCtl} (h : k.Holds P) (queue : k'.queue = k.queue) (current : k'.current = k.current) :
    k'.Holds P :=
  h.sub (fun _ ha => queue ▸ ha) (.inl current)

theorem BankCtl.Holds.joined {a : Access} (h : k.Holds P) (ha : P { a with bypass := 0 }) :
    BankCtl.Holds P { k with queue := k.queue ++ [{ a with bypass := 0 }] } := by
  refine ⟨fun x hx => ?_, h.2⟩
  obtain hx | hx := List.mem_append.1 hx
  · exact h.1 x hx
  · rw [List.mem_singleton.1 hx]
    exact ha

end

/-- A predicate of each bank's controller that the bank's own work keeps. -/
structure BankMoves (P : Bank → BankCtl → Prop) : Prop where
  pick : ∀ {b k}, P b k → P b k.pick
  afterAccess : ∀ {b k} hold page, P b k → P b (k.afterAccess hold page)
  relabel : ∀ {b k k'}, P b k → k'.queue = k.queue → k'.current = k.current → P b k'
  dropPort : ∀ {b k} p, P b k → P b (k.dropPort p)

section
variable {P : Bank → BankCtl → Prop} (h : BankMoves P) {s : State} (hs : ∀ b, P b (s.bank b))
include h hs

omit h in
theorem BankMoves.modBank {b : Bank} {f : BankCtl → BankCtl} (kept : P b (f (s.bank b))) (d : Bank) :
    P d ((s.modBank b f).bank d) := by
  by_cases same : d = b
  · subst same
    rwa [State.bank_modBank_same]
  · rw [State.bank_modBank_other _ _ same]
    exact hs d

theorem BankMoves.pickBank (b d : Bank) : P d ((s.pickBank b).bank d) := by
  unfold State.pickBank
  split
  · exact hs d
  · exact BankMoves.modBank hs (h.pick (hs b)) d

theorem BankMoves.enqueue {a : Access}
    (joined : P (bankOf a.cell) { s.bank (bankOf a.cell) with queue := (s.bank (bankOf a.cell)).queue ++ [{ a with bypass := 0 }] })
    (d : Bank) : P d ((s.enqueue a).bank d) :=
  h.pickBank (BankMoves.modBank hs joined) _ d

theorem BankMoves.mapSame {t : State} {f : BankCtl → BankCtl} (banks : t.banks = s.banks.map f)
    (queue : ∀ k, (f k).queue = k.queue) (current : ∀ k, (f k).current = k.current) (d : Bank) : P d (t.bank d) := by
  rw [State.bank_map banks]
  exact h.relabel (hs d) (queue _) (current _)

theorem BankMoves.lift {t : State} (banks : t.banks = s.banks.map (fun k => k.toIdle.pick)) (d : Bank) : P d (t.bank d) := by
  rw [State.bank_map banks]
  exact h.pick (h.relabel (hs d) rfl rfl)

end

/-- What the bank controllers hold is bounded by what joins them. -/
theorem BankMoves.holds {P : Bank → Access → Prop} (bypass : ∀ b a n, P b a → P b { a with bypass := n }) :
    BankMoves (fun b => BankCtl.Holds (P b)) where
  pick := BankCtl.Holds.pick (bypass _)
  afterAccess hold page h :=
    h.sub (fun a ha => by rwa [BankCtl.afterAccess_queue] at ha) (BankCtl.afterAccess_current hold page _)
  relabel := BankCtl.Holds.sameQueue
  dropPort _ h := h.sub (fun _ ha => List.mem_of_mem_filter ha) (.inl rfl)

/-! ### The Cell Store and the indices of its cells (R1, R4, R134) -/

theorem State.CellsOk.accesses {s : State} (ok : s.CellsOk) (b : Bank) : (s.bank b).Holds Access.inPart :=
  ⟨ok.queued b, ok.current b⟩

theorem State.CellsOk.sameBanks {s t : State} (ok : s.CellsOk) (cells : t.cells = s.cells) (banks : t.banks = s.banks)
    (park : t.park = s.park) (stamps : t.stamps = s.stamps) (inits : t.config.inits = s.config.inits) : t.CellsOk where
  canonical := cells ▸ ok.canonical
  queued b := by simpa [State.bank, banks] using ok.queued b
  current b := by simpa [State.bank, banks] using ok.current b
  parked := park ▸ ok.parked
  stamped := stamps ▸ ok.stamped
  flights := inits ▸ ok.flights

theorem State.CellsOk.newBanks {s t : State} (ok : s.CellsOk) (accesses : ∀ b, (t.bank b).Holds Access.inPart)
    (cells : t.cells = s.cells) (park : t.park = s.park) (stamps : t.stamps = s.stamps)
    (inits : t.config.inits = s.config.inits) : t.CellsOk where
  canonical := cells ▸ ok.canonical
  queued b := (accesses b).1
  current b := (accesses b).2
  parked := park ▸ ok.parked
  stamped := stamps ▸ ok.stamped
  flights := inits ▸ ok.flights

theorem State.CellsOk.newPark {s t : State} (ok : s.CellsOk) (parked : ∀ e ∈ t.park, e.cell < Config.cellCount)
    (cells : t.cells = s.cells) (banks : t.banks = s.banks) (stamps : t.stamps = s.stamps)
    (config : t.config = s.config) : t.CellsOk where
  canonical := cells ▸ ok.canonical
  queued b := by simpa [State.bank, banks] using ok.queued b
  current b := by simpa [State.bank, banks] using ok.current b
  parked := parked
  stamped := stamps ▸ ok.stamped
  flights := config ▸ ok.flights

/-- A bypass count says nothing of where an access goes. -/
theorem BankMoves.inPart : BankMoves (fun _ => BankCtl.Holds Access.inPart) := BankMoves.holds (fun _ _ _ h => h)

theorem reset_cellsOk : State.reset.CellsOk where
  canonical := reset_cells_wf
  queued b := by simp [State.reset, State.bank]
  current b := by simp [State.reset, State.bank]
  parked := by simp [State.reset]
  stamped p := by simp [State.reset]
  flights := by simp [State.reset]

theorem State.CellsOk.putCell {s : State} {c : CellIx} {r : CellRec} (ok : s.CellsOk) (known : c < Config.cellCount) :
    (s.putCell c r).CellsOk where
  canonical := by
    rw [State.putCell_cells]
    exact CellStore.write_wf r ok.canonical known
  queued b := by
    rw [State.putCell_frame]
    exact ok.queued b
  current b := by
    rw [State.putCell_frame]
    exact ok.current b
  parked := by
    rw [State.putCell_frame]
    exact ok.parked
  stamped p d hd := by
    rw [State.putCell_stamps] at hd
    split at hd
    · exact ok.stamped p d hd
    · split at hd
      · obtain hd | hd := List.mem_append.1 hd
        · exact ok.stamped p d hd
        · rw [List.mem_singleton.1 hd]
          exact known
      · split at hd
        · exact ok.stamped p d (List.mem_of_mem_filter hd)
        · exact ok.stamped p d hd
  flights := by
    rw [State.putCell_frame]
    exact ok.flights

theorem State.CellsOk.loseCells {s : State} (mask : BitVec 4) (ok : s.CellsOk) : (s.loseCells mask).CellsOk where
  canonical := CellStore.loseOutside_wf mask ok.canonical
  queued := ok.queued
  current := ok.current
  parked := ok.parked
  stamped p c hc := by
    simp only [State.loseCells, Four.get_map] at hc
    exact ok.stamped p c (List.mem_of_mem_filter hc)
  flights := ok.flights

theorem State.CellsOk.clearPort {s : State} (p : Port) (reason : LossReason) (ok : s.CellsOk) :
    (s.clearPort p reason).CellsOk := by
  have banks (b : Bank) : ((s.clearPort p reason).bank b).Holds Access.inPart := by
    rw [State.bank_map (s := s) (f := BankCtl.dropPort p) (by rw [State.clearPort_frame])]
    exact BankMoves.inPart.dropPort (b := b) p (ok.accesses b)
  refine ⟨?_, fun b => (banks b).1, fun b => (banks b).2, ?_, ?_, ?_⟩ <;> rw [State.clearPort_frame]
  · exact ok.canonical
  · exact fun e he => ok.parked e (List.mem_of_mem_filter he)
  · exact ok.stamped
  · exact fun i hi => ok.flights i (List.mem_of_mem_filter hi)

theorem InitFields.next_lt {i : InitFields} {c : CellIx} (fits : i.fits) (hc : c ≤ i.lastCell) :
    max i.base c < Config.cellCount := by
  obtain ⟨one, within⟩ := fits
  unfold InitFields.lastCell at hc
  change @LE.le Nat _ _ _ at within
  change @LT.lt Nat _ (max i.base c) _
  change @LE.le Nat _ _ _ at hc
  omega

/-- Every move keeps the Cell Store's form and the indices in the part. -/
theorem cellsOk_moves : TimedMoves (· < Config.cellCount) InitFields.fits State.CellsOk where
  currentKnown {s b a} ok hc := ok.current b a (by simp [hc])
  parkedKnown ok he := ok.parked _ he
  stampedKnown ok hc := ok.stamped _ _ hc
  flightKnown ok hi := ok.flights _ hi
  partKnown hc := hc
  fitsKnown hi := hi
  inRangeKnown fits _ hc := lt_of_lt_of_le hc fits.2
  nextKnown fits hc := InitFields.next_lt fits hc
  choices _ ok := ok.sameBanks rfl rfl rfl rfl rfl
  pending _ ok := ok.sameBanks rfl rfl rfl rfl rfl
  clock _ ok := ok.sameBanks rfl rfl rfl rfl rfl
  advance ok := ok.sameBanks rfl rfl rfl rfl rfl
  reset _ := reset_cellsOk.sameBanks rfl rfl rfl rfl rfl
  release ok := ok.sameBanks rfl rfl rfl rfl rfl
  hpu ok _ := ok.sameBanks rfl rfl rfl rfl rfl
  validFrame _ ok := ok.sameBanks rfl rfl rfl rfl rfl
  holdJoin _ ok _ _ := ok.sameBanks rfl rfl rfl rfl rfl
  goUp ok _ _ := ok.sameBanks rfl rfl rfl rfl rfl
  rejoin ok _ _ := ok.sameBanks rfl rfl rfl rfl rfl
  leave ok _ _ := ok.sameBanks rfl rfl rfl rfl rfl
  lostLink ok _ := ok.sameBanks rfl rfl rfl rfl rfl
  clear reason ok _ := ok.clearPort _ reason
  clearLost reason ok _ := State.CellsOk.clearPort _ reason (ok.sameBanks rfl rfl rfl rfl rfl)
  teardown ok _ := ok.sameBanks rfl rfl rfl rfl rfl
  raise p e ok := by
    rw [State.raise_frame]
    exact ok.sameBanks rfl rfl rfl rfl rfl
  fetch _ _ ok := ok.sameBanks rfl rfl rfl rfl rfl
  attention _ ok _ := ok.sameBanks rfl rfl rfl rfl rfl
  addWatch _ _ _ ok _ _ := ok.sameBanks rfl rfl rfl rfl rfl
  removeWatch _ ok := ok.sameBanks rfl rfl rfl rfl rfl
  setLast _ _ ok := ok.sameBanks rfl rfl rfl rfl rfl
  clearWatches ok := ok.sameBanks rfl rfl rfl rfl rfl
  unparkAll ok := ok.newPark (fun _ he => absurd he List.not_mem_nil) rfl rfl rfl rfl
  unpark _ _ ok := ok.newPark (fun e he => ok.parked e (List.mem_of_mem_filter he)) rfl rfl rfl rfl
  renew _ _ _ _ ok := ok.newPark (fun e he => by
    obtain ⟨x, hx, rfl⟩ := List.mem_map.1 he
    have known := ok.parked x hx
    split <;> exact known) rfl rfl rfl rfl
  parkNow ok _ _ known := ok.newPark (fun e he => by
    obtain he | he := List.mem_append.1 he
    · exact ok.parked e he
    · rw [List.mem_singleton.1 he]
      exact known) rfl rfl rfl rfl
  putCell ok known _ := ok.putCell known
  loseCells mask ok := ok.loseCells mask
  enqueue {s a} ok cell range := by
    refine ok.newBanks (BankMoves.inPart.enqueue ok.accesses ((ok.accesses _).joined ⟨cell, range⟩)) ?_ ?_ ?_ ?_ <;>
      rw [State.enqueue_frame]
  pickBank {s} b ok := by
    refine ok.newBanks (BankMoves.inPart.pickBank ok.accesses b) ?_ ?_ ?_ ?_ <;> rw [State.pickBank_frame]
  afterAccess b ok :=
    ok.newBanks (BankMoves.modBank ok.accesses (BankMoves.inPart.afterAccess (b := b) _ _ (ok.accesses b))) rfl rfl rfl rfl
  closeEnded {_ b} ok _ :=
    ok.newBanks (BankMoves.modBank ok.accesses (BankMoves.inPart.relabel (b := b) (ok.accesses b)
      (BankCtl.closeEnded_queue _) (BankCtl.closeEnded_current _))) rfl rfl rfl rfl
  openEnded b ok :=
    ok.newBanks (BankMoves.modBank ok.accesses (BankMoves.inPart.relabel (b := b) (ok.accesses b)
      (BankCtl.openEnded_queue _) (BankCtl.openEnded_current _))) rfl rfl rfl rfl
  interval _ ok := ok.sameBanks rfl rfl rfl rfl rfl
  overrun ok := ok.sameBanks rfl rfl rfl rfl rfl
  owe ok _ _ := ok.sameBanks rfl rfl rfl rfl rfl
  holdBanks ok :=
    ok.newBanks (BankMoves.inPart.mapSame ok.accesses rfl BankCtl.holdPlaced_queue BankCtl.holdPlaced_current) rfl rfl rfl rfl
  beginRefresh ok _ _ :=
    ok.newBanks (BankMoves.inPart.mapSame ok.accesses (f := fun k => { k with state := .refreshing }) rfl (fun _ => rfl)
      (fun _ => rfl)) rfl rfl rfl rfl
  refreshOver ok _ :=
    ok.newBanks (BankMoves.inPart.mapSame ok.accesses (f := BankCtl.toIdle) rfl (fun _ => rfl) (fun _ => rfl)) rfl rfl rfl rfl
  refreshAgain ok _ _ :=
    ok.newBanks (BankMoves.inPart.mapSame ok.accesses (f := fun k => { k with state := .refreshing }) rfl (fun _ => rfl)
      (fun _ => rfl)) rfl rfl rfl rfl
  refreshLift ok _ _ :=
    ok.newBanks (BankMoves.inPart.lift ok.accesses rfl) rfl rfl rfl rfl
  enterFree ok _ _ :=
    ok.newBanks (BankMoves.inPart.mapSame ok.accesses rfl BankCtl.holdPlaced_queue BankCtl.holdPlaced_current) rfl rfl rfl rfl
  enterHeld ok _ _ := ok.sameBanks rfl rfl rfl rfl rfl
  beginPlacing _ ok _ _ := ok.sameBanks rfl rfl rfl rfl rfl
  setRetained {s mask} ok _ _ :=
    ok.newBanks (fun b => by
      rw [State.setRetained_bank]
      exact BankMoves.inPart.relabel (b := b) (ok.accesses b) rfl rfl) rfl rfl rfl rfl
  startExit ok _ := ok.sameBanks rfl rfl rfl rfl rfl
  wakeBanks ok _ := ok.newBanks (BankMoves.inPart.lift ok.accesses rfl) rfl rfl rfl rfl
  votes ok _ := ok.sameBanks rfl rfl rfl rfl rfl
  config ok fits := ⟨ok.canonical, ok.queued, ok.current, ok.parked, ok.stamped, fits.inits⟩
  table ok _ := ok.sameBanks rfl rfl rfl rfl rfl

/-- Settles O54, by the moves a step is made of. -/
theorem everyStepKeepsTheCellStore : Obligations.EveryStepKeepsTheCellStore := by
  unfold Obligations.EveryStepKeepsTheCellStore
  exact fun _ _ ok run => cellsOk_moves.step ok run

end Sys2Proof.Machine

namespace Sys2Proof.Machine

/-! ### The bounded tables (R41, R63, R74, R102, R119) -/

theorem insertWatch_perm (w : Watch) (ws : List Watch) : (insertWatch w ws).Perm (w :: ws) := by
  induction ws with
  | nil => exact .refl _
  | cons x rest ih =>
    unfold insertWatch
    split
    · exact .refl _
    · exact (ih.cons x).trans (.swap w x rest)

theorem insertWatch_rising {w : Watch} {ws : List Watch} (rising : ws.Pairwise (fun x y => x.id < y.id))
    (fresh : ∀ x ∈ ws, x.id ≠ w.id) : (insertWatch w ws).Pairwise (fun x y => x.id < y.id) := by
  induction ws with
  | nil => exact List.pairwise_singleton _ _
  | cons x rest ih =>
    obtain ⟨first, others⟩ := List.pairwise_cons.1 rising
    unfold insertWatch
    split
    · rename_i before
      refine List.pairwise_cons.2 ⟨fun y hy => ?_, rising⟩
      obtain rfl | hy := List.mem_cons.1 hy
      · exact before
      · exact lt_trans before (first y hy)
    · rename_i after
      refine List.pairwise_cons.2 ⟨fun y hy => ?_, ih others (fun y hy => fresh y (List.mem_cons_of_mem _ hy))⟩
      obtain rfl | hy := List.mem_cons.1 ((insertWatch_perm w rest).subset hy)
      · exact lt_of_le_of_ne (not_lt.1 after) (fresh x List.mem_cons_self)
      · exact first y hy

/-- In a table with room the id of a new watch is below 32 and free (R65 step 4). -/
theorem State.freeWatchId_spec {s : State} (room : s.watches.length < Config.watchCapacity) :
    s.freeWatchId < Config.watchCapacity ∧ ∀ w ∈ s.watches, w.id ≠ s.freeWatchId := by
  unfold State.freeWatchId
  cases found : (List.range Config.watchCapacity).find? (fun i => s.watches.all (fun w => w.id != i)) with
  | some i =>
    refine ⟨List.mem_range.1 (List.mem_of_find?_eq_some found), fun w hw => ?_⟩
    have free := List.find?_some found
    simpa using List.all_eq_true.1 free w hw
  | none =>
    -- Every id below 32 would be in use, by more watches than there are.
    exfalso
    have used : List.range Config.watchCapacity ⊆ s.watches.map (fun w => w.id) := by
      intro i hi
      simpa using List.find?_eq_none.1 found i hi
    have := (List.nodup_range.subperm used).length_le
    rw [List.length_range, List.length_map] at this
    omega

/-- A Watch Table within its bounds (R63). -/
structure WatchesOk (ws : List Watch) : Prop where
  length : ws.length ≤ Config.watchCapacity
  ofPort : ∀ p, (ws.filter (fun w => w.port == p)).length ≤ Config.watchCapacityPerPort
  rising : ws.Pairwise (fun v w => v.id < w.id)
  ids : ∀ w ∈ ws, w.id < Config.watchCapacity

theorem State.TablesOk.watchesOk {s : State} (ok : s.TablesOk) : WatchesOk s.watches :=
  ⟨ok.watches, ok.watchesOfPort, ok.watchIds.1, ok.watchIds.2⟩

theorem WatchesOk.sublist {vs ws : List Watch} (ok : WatchesOk ws) (sub : vs.Sublist ws) : WatchesOk vs where
  length := sub.length_le.trans ok.length
  ofPort p := (sub.filter _).length_le.trans (ok.ofPort p)
  rising := ok.rising.sublist sub
  ids w hw := ok.ids w (sub.subset hw)

theorem WatchesOk.map {ws : List Watch} {f : Watch → Watch} (ok : WatchesOk ws)
    (same : ∀ w, (f w).id = w.id ∧ (f w).port = w.port) : WatchesOk (ws.map f) where
  length := by simpa using ok.length
  ofPort p := by
    have ports : ((fun w : Watch => w.port == p) ∘ f) = fun w => w.port == p := by
      funext w
      simp [(same w).2]
    simpa [List.filter_map, ports] using ok.ofPort p
  rising := List.pairwise_map.2 (ok.rising.imp (fun {v w} lt => by rwa [(same v).1, (same w).1]))
  ids w hw := by
    obtain ⟨v, hv, rfl⟩ := List.mem_map.1 hw
    rw [(same v).1]
    exact ok.ids v hv

theorem WatchesOk.add {s : State} {p : Port} (c : CellIx) (f : WatchFields) (v : Word) (ok : WatchesOk s.watches)
    (room : s.watchFull p = false) : WatchesOk (insertWatch (newWatch s.freeWatchId p c f v) s.watches) := by
  have roomy : s.watches.length < Config.watchCapacity ∧ s.watchCount p < Config.watchCapacityPerPort := by
    simpa [State.watchFull] using room
  obtain ⟨below, fresh⟩ := State.freeWatchId_spec roomy.1
  have perm := insertWatch_perm (newWatch s.freeWatchId p c f v) s.watches
  exact {
    length := by
      rw [perm.length_eq]
      exact roomy.1
    ofPort := fun q => by
      rw [(perm.filter _).length_eq]
      by_cases same : p = q
      · subst same
        have own : (newWatch s.freeWatchId p c f v).port == p := by simp [newWatch]
        rw [List.filter_cons_of_pos (p := fun w : Watch => w.port == p) own]
        exact roomy.2
      · have other : ¬((newWatch s.freeWatchId p c f v).port == q) = true := by simpa [newWatch] using same
        rw [List.filter_cons_of_neg (p := fun w : Watch => w.port == q) other]
        exact ok.ofPort q
    rising := insertWatch_rising ok.rising fresh
    ids := fun w hw => by
      obtain rfl | hw := List.mem_cons.1 (perm.subset hw)
      · exact below
      · exact ok.ids w hw }

/-- Every event queue is within its bound (R74). -/
def State.EventsBounded (s : State) : Prop := ∀ p, (s.eventPort p).queue.length ≤ Config.eventCapacity

theorem State.TablesOk.of {s t : State} (ok : s.TablesOk) (park : t.park.length ≤ Config.parkCapacity)
    (watches : WatchesOk t.watches) (events : t.EventsBounded) (debt : t.refresh.debt ≤ Config.debtCap)
    (regions : t.table.entries.length = s.table.entries.length) : t.TablesOk :=
  ⟨park, watches.length, watches.ofPort, ⟨watches.rising, watches.ids⟩, events, debt, regions.trans ok.regions⟩

theorem State.TablesOk.same {s t : State} (ok : s.TablesOk) (park : t.park = s.park) (watches : t.watches = s.watches)
    (events : t.events = s.events) (debt : t.refresh.debt = s.refresh.debt) (table : t.table = s.table) : t.TablesOk :=
  ok.of (park ▸ ok.park) (watches ▸ ok.watchesOk) (fun p => by simpa [State.eventPort, events] using ok.events p)
    (debt ▸ ok.debt) (by rw [table])

theorem State.TablesOk.newPark {s : State} {l : List ParkEntry} (ok : s.TablesOk) (park : l.length ≤ Config.parkCapacity) :
    State.TablesOk { s with park := l } :=
  ok.of park ok.watchesOk ok.events ok.debt rfl

theorem State.TablesOk.newWatches {s : State} {ws : List Watch} (ok : s.TablesOk) (watches : WatchesOk ws) :
    State.TablesOk { s with watches := ws } :=
  ok.of ok.park watches ok.events ok.debt rfl

theorem State.TablesOk.newDebt {s t : State} (ok : s.TablesOk) (debt : t.refresh.debt ≤ Config.debtCap)
    (park : t.park = s.park) (watches : t.watches = s.watches) (events : t.events = s.events) (table : t.table = s.table) :
    t.TablesOk :=
  ok.of (park ▸ ok.park) (watches ▸ ok.watchesOk) (fun p => by simpa [State.eventPort, events] using ok.events p) debt
    (by rw [table])

theorem State.TablesOk.modEvents {s : State} {p : Port} {f : EventPort → EventPort} (ok : s.TablesOk)
    (kept : (f (s.eventPort p)).queue.length ≤ Config.eventCapacity) : (s.modEvents p f).TablesOk := by
  refine ok.of ok.park ok.watchesOk (fun q => ?_) ok.debt rfl
  by_cases same : q = p
  · subst same
    rwa [State.eventPort_modEvents_same]
  · rw [State.eventPort_modEvents_other _ _ same]
    exact ok.events q

theorem State.TablesOk.raise {s : State} (p : Port) (e : Event) (ok : s.TablesOk) : (s.raise p e).TablesOk := by
  unfold State.raise
  split
  · exact ok.modEvents (EventPort.take_length e _ (ok.events p))
  · exact ok

theorem State.TablesOk.goUp {s : State} (p : Port) (ok : s.TablesOk) : (s.goUp p).TablesOk :=
  State.TablesOk.modEvents (ok.same rfl rfl rfl rfl rfl) (ok.events p)

theorem State.TablesOk.clearPort {s : State} (p : Port) (reason : LossReason) (ok : s.TablesOk) :
    (s.clearPort p reason).TablesOk := by
  unfold State.clearPort State.raiseOthers
  refine foldl_kept _ (fun _ _ _ ht => ht.raise _ _) ?_
  refine State.TablesOk.same (State.TablesOk.modEvents (p := p) (f := fun q => { q with queue := [], attention := false })
    ((ok.newPark ((List.length_filter_le _ _).trans ok.park)).newWatches (ok.watchesOk.sublist List.filter_sublist))
    (Nat.zero_le _)) rfl rfl rfl rfl rfl

theorem reset_tablesOk : State.reset.TablesOk where
  park := Nat.zero_le _
  watches := Nat.zero_le _
  watchesOfPort _ := Nat.zero_le _
  watchIds := ⟨List.Pairwise.nil, fun _ h => absurd h List.not_mem_nil⟩
  events p := by simp [State.reset, State.eventPort]
  debt := Nat.zero_le _
  regions := List.length_replicate

/-- Every move keeps the tables within their bounds. -/
theorem tablesOk_moves : TimedMoves (fun _ => True) (fun _ => True) State.TablesOk where
  currentKnown _ _ := ⟨trivial, fun _ _ => trivial⟩
  parkedKnown _ _ := trivial
  stampedKnown _ _ := trivial
  flightKnown _ _ := trivial
  partKnown _ := trivial
  fitsKnown _ := trivial
  inRangeKnown _ _ _ := trivial
  nextKnown _ _ := trivial
  choices _ ok := ok.same rfl rfl rfl rfl rfl
  pending _ ok := ok.same rfl rfl rfl rfl rfl
  clock _ ok := ok.same rfl rfl rfl rfl rfl
  advance ok := ok.same rfl rfl rfl rfl rfl
  reset _ := reset_tablesOk.same rfl rfl rfl rfl rfl
  release ok := ok.same rfl rfl rfl rfl rfl
  hpu ok _ := ok.same rfl rfl rfl rfl rfl
  validFrame _ ok := ok.same rfl rfl rfl rfl rfl
  holdJoin _ ok _ _ := ok.same rfl rfl rfl rfl rfl
  goUp {_ p} ok _ _ := ok.goUp p
  rejoin {_ p _ _} ok _ _ := State.TablesOk.goUp p (ok.same rfl rfl rfl rfl rfl)
  leave ok _ _ := ok.same rfl rfl rfl rfl rfl
  lostLink ok _ := ok.same rfl rfl rfl rfl rfl
  clear reason ok _ := ok.clearPort _ reason
  clearLost reason ok _ := State.TablesOk.clearPort _ reason (ok.same rfl rfl rfl rfl rfl)
  teardown ok _ := ok.same rfl rfl rfl rfl rfl
  raise p e ok := ok.raise p e
  fetch p n ok := ok.modEvents (by simpa using (Nat.sub_le _ _).trans (ok.events p))
  attention {_ p} _ ok _ := ok.modEvents (ok.events p)
  addWatch c f v ok _ room := ok.newWatches (ok.watchesOk.add c f v room)
  removeWatch _ ok := ok.newWatches (ok.watchesOk.sublist List.filter_sublist)
  setLast _ _ ok := ok.newWatches (ok.watchesOk.map (fun w => by split <;> exact ⟨rfl, rfl⟩))
  clearWatches ok := ok.newWatches (ok.watchesOk.sublist (List.nil_sublist _))
  unparkAll ok := ok.newPark (Nat.zero_le _)
  unpark _ _ ok := ok.newPark ((List.length_filter_le _ _).trans ok.park)
  renew _ _ _ _ ok := ok.newPark (by simpa using ok.park)
  parkNow ok _ room _ := ok.newPark (by simpa using room)
  putCell ok _ _ := by
    rw [State.putCell_frame]
    exact ok.same rfl rfl rfl rfl rfl
  loseCells _ ok := ok.same rfl rfl rfl rfl rfl
  enqueue ok _ _ := by
    rw [State.enqueue_frame]
    exact ok.same rfl rfl rfl rfl rfl
  pickBank b ok := by
    rw [State.pickBank_frame]
    exact ok.same rfl rfl rfl rfl rfl
  afterAccess _ ok := ok.same rfl rfl rfl rfl rfl
  closeEnded ok _ := ok.same rfl rfl rfl rfl rfl
  openEnded _ ok := ok.same rfl rfl rfl rfl rfl
  interval _ ok := ok.same rfl rfl rfl rfl rfl
  overrun ok := ok.same rfl rfl rfl rfl rfl
  owe ok _ room := ok.newDebt room rfl rfl rfl rfl
  holdBanks ok := ok.same rfl rfl rfl rfl rfl
  beginRefresh ok _ _ := ok.same rfl rfl rfl rfl rfl
  refreshOver ok _ := ok.newDebt ((Nat.sub_le _ _).trans ok.debt) rfl rfl rfl rfl
  refreshAgain ok _ _ := ok.newDebt ((Nat.sub_le _ _).trans ok.debt) rfl rfl rfl rfl
  refreshLift ok _ _ := ok.newDebt ((Nat.sub_le _ _).trans ok.debt) rfl rfl rfl rfl
  enterFree ok _ _ := ok.same rfl rfl rfl rfl rfl
  enterHeld ok _ _ := ok.same rfl rfl rfl rfl rfl
  beginPlacing _ ok _ _ := ok.same rfl rfl rfl rfl rfl
  setRetained ok _ _ := ok.newDebt (Nat.zero_le _) rfl rfl rfl rfl
  startExit ok _ := ok.same rfl rfl rfl rfl rfl
  wakeBanks ok _ := ok.newDebt (Nat.zero_le _) rfl rfl rfl rfl
  votes ok _ := ok.same rfl rfl rfl rfl rfl
  config ok _ := ok.same rfl rfl rfl rfl rfl
  table ok entries := ok.of ok.park ok.watchesOk ok.events ok.debt entries

/-! ### Bank queues (R84, R88) -/

/-- Counting a bypass for every older entry keeps a queue in order, when its oldest count was below 4 (R87, R88). -/
theorem bypass_falling {older younger : List Access} {a : Access}
    (falling : (older ++ a :: younger).Pairwise (fun x y => y.bypass ≤ x.bypass))
    (bound : ∀ x ∈ older ++ a :: younger, x.bypass ≤ Config.bypassCap) (young : ∀ x ∈ older.head?, x.bypass < Config.bypassCap) :
    (older.map (fun x : Access => { x with bypass := x.bypass + 1 }) ++ younger).Pairwise
        (fun x y : Access => y.bypass ≤ x.bypass) ∧
      ∀ x ∈ older.map (fun x : Access => { x with bypass := x.bypass + 1 }) ++ younger, x.bypass ≤ Config.bypassCap := by
  obtain ⟨ofOlder, ofRest, between⟩ := List.pairwise_append.1 falling
  have ofYounger := (List.pairwise_cons.1 ofRest).2
  have below : ∀ x ∈ older, x.bypass < Config.bypassCap := by
    cases older with
    | nil => exact fun _ h => absurd h List.not_mem_nil
    | cons y more =>
      intro x hx
      obtain rfl | hx := List.mem_cons.1 hx
      · exact young x rfl
      · exact lt_of_le_of_lt ((List.pairwise_cons.1 ofOlder).1 x hx) (young y rfl)
  refine ⟨List.pairwise_append.2 ⟨List.pairwise_map.2 (ofOlder.imp (fun le => Nat.succ_le_succ le)), ofYounger, ?_⟩, ?_⟩
  · rintro x hx y hy
    obtain ⟨z, hz, rfl⟩ := List.mem_map.1 hx
    exact (between z hz y (List.mem_cons_of_mem _ hy)).trans (Nat.le_succ _)
  · intro x hx
    obtain hx | hx := List.mem_append.1 hx
    · obtain ⟨z, hz, rfl⟩ := List.mem_map.1 hx
      exact below z hz
    · exact bound x (by simp [hx])

theorem BankCtl.queueOk.holds {b : Bank} {k : BankCtl} (ok : k.queueOk b) : k.Holds (fun a => bankOf a.cell = b) := ok.bank

/-- A bank's own work keeps its queue in order. -/
theorem BankMoves.queueOk : BankMoves (fun b k => k.queueOk b) where
  pick {b k} ok := by
    have held := BankCtl.Holds.pick (P := fun a => bankOf a.cell = b) (fun _ _ h => h) ok.holds
    obtain same | ⟨a, rest, -, chosen, picked⟩ := k.pick_cases
    · rwa [same]
    · obtain ⟨older, younger, whole, left, young⟩ := chooseAccess_cases chosen
      obtain ⟨falling, bound⟩ := bypass_falling (whole ▸ ok.falling) (whole ▸ ok.bound) young
      rw [picked] at held ⊢
      exact ⟨left ▸ falling, left ▸ bound, held⟩
  afterAccess {b k} hold page ok :=
    ⟨by simpa [BankCtl.afterAccess_queue] using ok.falling, by simpa [BankCtl.afterAccess_queue] using ok.bound,
      BankCtl.Holds.sub ok.holds (fun a ha => by rwa [BankCtl.afterAccess_queue] at ha)
        (BankCtl.afterAccess_current hold page k)⟩
  relabel ok queue current := ⟨queue ▸ ok.falling, queue ▸ ok.bound, BankCtl.Holds.sameQueue ok.holds queue current⟩
  dropPort p ok :=
    ⟨ok.falling.filter _, fun a ha => ok.bound a (List.mem_of_mem_filter ha),
      BankCtl.Holds.sub ok.holds (fun _ ha => List.mem_of_mem_filter ha) (.inl rfl)⟩

theorem State.QueuesOk.same {s t : State} (ok : s.QueuesOk) (banks : t.banks = s.banks) : t.QueuesOk :=
  fun b => by simpa [State.bank, banks] using ok b

theorem State.QueuesOk.enqueue {s : State} (a : Access) (ok : s.QueuesOk) : (s.enqueue a).QueuesOk := by
  refine BankMoves.queueOk.enqueue ok ⟨?_, ?_, BankCtl.Holds.joined (P := fun x => bankOf x.cell = bankOf a.cell) (ok _).holds rfl⟩
  · refine List.pairwise_append.2 ⟨(ok _).falling, List.pairwise_singleton _ _, fun x _ y hy => ?_⟩
    rw [List.mem_singleton.1 hy]
    exact Nat.zero_le _
  · intro x hx
    obtain hx | hx := List.mem_append.1 hx
    · exact (ok _).bound x hx
    · rw [List.mem_singleton.1 hx]
      exact Nat.zero_le _

theorem State.QueuesOk.clearPort {s : State} (p : Port) (reason : LossReason) (ok : s.QueuesOk) :
    (s.clearPort p reason).QueuesOk := fun b => by
  rw [State.bank_map (s := s) (f := BankCtl.dropPort p) (by rw [State.clearPort_frame])]
  exact BankMoves.queueOk.dropPort p (ok b)

theorem reset_queuesOk : State.reset.QueuesOk := fun b => by
  have empty : State.reset.bank b = { state := .idle, current := none, queue := [] } := Four.get_all _ b
  rw [empty]
  exact ⟨.nil, fun _ h => absurd h List.not_mem_nil, fun _ h => absurd h List.not_mem_nil, fun _ h => absurd h List.not_mem_nil⟩

/-- Every move keeps the bank queues in order. -/
theorem queuesOk_moves : TimedMoves (fun _ => True) (fun _ => True) State.QueuesOk where
  currentKnown _ _ := ⟨trivial, fun _ _ => trivial⟩
  parkedKnown _ _ := trivial
  stampedKnown _ _ := trivial
  flightKnown _ _ := trivial
  partKnown _ := trivial
  fitsKnown _ := trivial
  inRangeKnown _ _ _ := trivial
  nextKnown _ _ := trivial
  choices _ ok := ok.same rfl
  pending _ ok := ok.same rfl
  clock _ ok := ok.same rfl
  advance ok := ok.same rfl
  reset _ := reset_queuesOk.same rfl
  release ok := ok.same rfl
  hpu ok _ := ok.same rfl
  validFrame _ ok := ok.same rfl
  holdJoin _ ok _ _ := ok.same rfl
  goUp ok _ _ := ok.same rfl
  rejoin ok _ _ := ok.same rfl
  leave ok _ _ := ok.same rfl
  lostLink ok _ := ok.same rfl
  clear reason ok _ := ok.clearPort _ reason
  clearLost reason ok _ := State.QueuesOk.clearPort _ reason (ok.same rfl)
  teardown ok _ := ok.same rfl
  raise p e ok := ok.same (by rw [State.raise_frame])
  fetch _ _ ok := ok.same rfl
  attention _ ok _ := ok.same rfl
  addWatch _ _ _ ok _ _ := ok.same rfl
  removeWatch _ ok := ok.same rfl
  setLast _ _ ok := ok.same rfl
  clearWatches ok := ok.same rfl
  unparkAll ok := ok.same rfl
  unpark _ _ ok := ok.same rfl
  renew _ _ _ _ ok := ok.same rfl
  parkNow ok _ _ _ := ok.same rfl
  putCell ok _ _ := ok.same (by rw [State.putCell_frame])
  loseCells _ ok := ok.same rfl
  enqueue {_ a} ok _ _ := ok.enqueue a
  pickBank b ok := BankMoves.queueOk.pickBank ok b
  afterAccess b ok := BankMoves.modBank ok (BankMoves.queueOk.afterAccess _ _ (ok b))
  closeEnded {_ b} ok _ := BankMoves.modBank ok (BankMoves.queueOk.relabel (ok b) (BankCtl.closeEnded_queue _)
    (BankCtl.closeEnded_current _))
  openEnded b ok := BankMoves.modBank ok (BankMoves.queueOk.relabel (ok b) (BankCtl.openEnded_queue _)
    (BankCtl.openEnded_current _))
  interval _ ok := ok.same rfl
  overrun ok := ok.same rfl
  owe ok _ _ := ok.same rfl
  holdBanks ok := BankMoves.queueOk.mapSame ok rfl BankCtl.holdPlaced_queue BankCtl.holdPlaced_current
  beginRefresh ok _ _ := BankMoves.queueOk.mapSame ok (f := fun k => { k with state := .refreshing }) rfl (fun _ => rfl)
    (fun _ => rfl)
  refreshOver ok _ := BankMoves.queueOk.mapSame ok (f := BankCtl.toIdle) rfl (fun _ => rfl) (fun _ => rfl)
  refreshAgain ok _ _ := BankMoves.queueOk.mapSame ok (f := fun k => { k with state := .refreshing }) rfl (fun _ => rfl)
    (fun _ => rfl)
  refreshLift ok _ _ := BankMoves.queueOk.lift ok rfl
  enterFree ok _ _ := BankMoves.queueOk.mapSame ok rfl BankCtl.holdPlaced_queue BankCtl.holdPlaced_current
  enterHeld ok _ _ := ok.same rfl
  beginPlacing _ ok _ _ := ok.same rfl
  setRetained ok _ _ := fun b => by
    rw [State.setRetained_bank]
    exact BankMoves.queueOk.relabel (ok b) rfl rfl
  startExit ok _ := ok.same rfl
  wakeBanks ok _ := BankMoves.queueOk.lift ok rfl
  votes ok _ := ok.same rfl
  config ok _ := ok.same rfl
  table ok _ := ok.same rfl

/-- Settles O56, by the moves a step is made of. -/
theorem everyStepKeepsCapacitiesAndBankQueues : Obligations.EveryStepKeepsCapacitiesAndBankQueues := by
  unfold Obligations.EveryStepKeepsCapacitiesAndBankQueues
  exact ⟨fun _ _ ok run => tablesOk_moves.step ok run, fun _ _ ok run => queuesOk_moves.step ok run⟩

end Sys2Proof.Machine

namespace Sys2Proof.Machine

/-! ### Owners and stamp lists (R10 to R12) -/

theorem State.StampsOk.same {s t : State} (ok : s.StampsOk) (cells : t.cells = s.cells) (stamps : t.stamps = s.stamps) :
    t.StampsOk where
  owners p c := by simpa [State.readCell, cells, stamps] using ok.owners p c
  once := stamps ▸ ok.once
  bound := stamps ▸ ok.bound

/-- A cell record written with its stamp lists keeps their agreement, when a port that becomes the owner has room. -/
theorem State.StampsOk.putCell {s : State} {c : CellIx} {r : CellRec} (ok : s.StampsOk) (fits : s.RecordFits c r) :
    (s.putCell c r).StampsOk := by
  have read (d : CellIx) : (s.putCell c r).readCell d = if d = c then r else s.readCell d := by
    split
    · rename_i same
      rw [same, State.putCell_read_same]
    · rename_i other
      exact State.putCell_read_other r s other
  by_cases stays : (s.readCell c).owner = r.owner
  · have list (p : Port) : (s.putCell c r).stamps.get p = s.stamps.get p := by rw [State.putCell_stamps, if_pos stays]
    refine ⟨fun p d => ?_, fun p => list p ▸ ok.once p, fun p => list p ▸ ok.bound p⟩
    rw [list, read, ok.owners]
    split
    · rename_i same
      rw [same, stays]
    · exact Iff.rfl
  · have list (p : Port) : (s.putCell c r).stamps.get p =
        if r.owner = some p then s.stamps.get p ++ [c]
        else if (s.readCell c).owner = some p then (s.stamps.get p).filter (fun x => x != c)
        else s.stamps.get p := by rw [State.putCell_stamps, if_neg stays]
    have mem (p : Port) : c ∈ s.stamps.get p ↔ (s.readCell c).owner = some p := ok.owners p c
    refine ⟨fun p d => ?_, fun p => ?_, fun p => ?_⟩
    · rw [list, read]
      split
      · rename_i joins
        by_cases same : d = c
        · simp [same, joins]
        · simp [same, ok.owners]
      · rename_i stranger
        split
        · by_cases same : d = c
          · simp [same, stranger]
          · simp [same, ok.owners]
        · rename_i apart
          by_cases same : d = c
          · simp [same, stranger, mem, apart]
          · simp [same, ok.owners]
    · rw [list]
      split
      · rename_i joins
        have absent : c ∉ s.stamps.get p := fun h => stays (((mem p).1 h).trans joins.symm)
        refine List.nodup_append.2 ⟨ok.once p, List.nodup_singleton c, fun x hx y hy => ?_⟩
        rw [List.mem_singleton.1 hy]
        exact fun same => absent (same ▸ hx)
      · split
        · exact (ok.once p).filter _
        · exact ok.once p
    · rw [list]
      split
      · rename_i joins
        have room := fits p joins (fun owned => stays (owned.trans joins.symm))
        rw [List.length_append]
        exact room
      · split
        · exact (List.length_filter_le _ _).trans (ok.bound p)
        · exact ok.bound p

/-- The loss of the banks outside a mask takes their cells out of the stamp lists (R112). -/
theorem State.StampsOk.loseCells {s : State} (mask : BitVec 4) (ok : s.StampsOk) : (s.loseCells mask).StampsOk := by
  have list (p : Port) :
      (s.loseCells mask).stamps.get p = (s.stamps.get p).filter (fun c => mask.getLsbD (bankOf c).val) := Four.get_map _ _ _
  refine ⟨fun p c => ?_, fun p => ?_, fun p => ?_⟩
  · rw [list, List.mem_filter, ok.owners]
    change _ ↔ ((s.cells.loseOutside mask).read c).owner = some p
    rw [CellStore.read_loseOutside]
    split
    · rename_i inside
      simp only [inside, and_true]
      rfl
    · rename_i outside
      simp only [outside, and_false, CellRec.owner, reduceCtorEq, Bool.false_eq_true]
  · rw [list]
    exact (ok.once p).filter _
  · rw [list]
    exact (List.length_filter_le _ _).trans (ok.bound p)

theorem reset_stampsOk : State.reset.StampsOk where
  owners p c := by
    rw [reset_readCell]
    simp [State.reset, CellRec.owner]
  once p := by simp [State.reset]
  bound p := by simp [State.reset]

/-- Every move keeps owners and stamp lists in agreement. -/
theorem stampsOk_moves : TimedMoves (fun _ => True) (fun _ => True) State.StampsOk where
  currentKnown _ _ := ⟨trivial, fun _ _ => trivial⟩
  parkedKnown _ _ := trivial
  stampedKnown _ _ := trivial
  flightKnown _ _ := trivial
  partKnown _ := trivial
  fitsKnown _ := trivial
  inRangeKnown _ _ _ := trivial
  nextKnown _ _ := trivial
  choices _ ok := ok.same rfl rfl
  pending _ ok := ok.same rfl rfl
  clock _ ok := ok.same rfl rfl
  advance ok := ok.same rfl rfl
  reset _ := reset_stampsOk.same rfl rfl
  release ok := ok.same rfl rfl
  hpu ok _ := ok.same rfl rfl
  validFrame _ ok := ok.same rfl rfl
  holdJoin _ ok _ _ := ok.same rfl rfl
  goUp ok _ _ := ok.same rfl rfl
  rejoin ok _ _ := ok.same rfl rfl
  leave ok _ _ := ok.same rfl rfl
  lostLink ok _ := ok.same rfl rfl
  clear reason ok _ := ok.same (by rw [State.clearPort_frame]) (by rw [State.clearPort_frame])
  clearLost reason ok _ := ok.same (by rw [State.clearPort_frame]; rfl) (by rw [State.clearPort_frame]; rfl)
  teardown ok _ := ok.same rfl rfl
  raise p e ok := ok.same (by rw [State.raise_frame]) (by rw [State.raise_frame])
  fetch _ _ ok := ok.same rfl rfl
  attention _ ok _ := ok.same rfl rfl
  addWatch _ _ _ ok _ _ := ok.same rfl rfl
  removeWatch _ ok := ok.same rfl rfl
  setLast _ _ ok := ok.same rfl rfl
  clearWatches ok := ok.same rfl rfl
  unparkAll ok := ok.same rfl rfl
  unpark _ _ ok := ok.same rfl rfl
  renew _ _ _ _ ok := ok.same rfl rfl
  parkNow ok _ _ _ := ok.same rfl rfl
  putCell ok _ fits := ok.putCell fits
  loseCells mask ok := ok.loseCells mask
  enqueue ok _ _ := ok.same (by rw [State.enqueue_frame]) (by rw [State.enqueue_frame])
  pickBank b ok := ok.same (by rw [State.pickBank_frame]) (by rw [State.pickBank_frame])
  afterAccess _ ok := ok.same rfl rfl
  closeEnded ok _ := ok.same rfl rfl
  openEnded _ ok := ok.same rfl rfl
  interval _ ok := ok.same rfl rfl
  overrun ok := ok.same rfl rfl
  owe ok _ _ := ok.same rfl rfl
  holdBanks ok := ok.same rfl rfl
  beginRefresh ok _ _ := ok.same rfl rfl
  refreshOver ok _ := ok.same rfl rfl
  refreshAgain ok _ _ := ok.same rfl rfl
  refreshLift ok _ _ := ok.same rfl rfl
  enterFree ok _ _ := ok.same rfl rfl
  enterHeld ok _ _ := ok.same rfl rfl
  beginPlacing _ ok _ _ := ok.same rfl rfl
  setRetained ok _ _ := ok.same rfl rfl
  startExit ok _ := ok.same rfl rfl
  wakeBanks ok _ := ok.same rfl rfl
  votes ok _ := ok.same rfl rfl
  config ok _ := ok.same rfl rfl
  table ok _ := ok.same rfl rfl

/-- Settles O55, by the moves a step is made of. -/
theorem everyStepKeepsOwnersAndStampLists : Obligations.EveryStepKeepsOwnersAndStampLists := by
  unfold Obligations.EveryStepKeepsOwnersAndStampLists
  exact fun _ _ ok run => stampsOk_moves.step ok run

end Sys2Proof.Machine

namespace Sys2Proof.Machine

/-! ### Banks, hold and power state (R83, R96, R97, R105, R111 to R113) -/

theorem State.heldClosed_iff {s : State} :
    s.heldClosed = true ↔ s.refresh.hold = true ∧ s.refresh.refreshing = false ∧
      ∀ b, (s.bank b).state = .idle ∧ (s.bank b).current = none := by
  rw [State.heldClosed, Bool.and_eq_true, Bool.and_eq_true, Four.all_toList, Bool.not_eq_true']
  simp only [BankCtl.closed, Bool.and_eq_true, beq_iff_eq, Option.isNone_iff_eq_none]
  exact ⟨fun ⟨⟨hold, closed⟩, free⟩ => ⟨hold, free, closed⟩, fun ⟨hold, free, closed⟩ => ⟨⟨hold, closed⟩, free⟩⟩

/-- What a bank may become while the Refresh Controller stays as it is. -/
structure BankCtl.Follows (hold : Bool) (k k' : BankCtl) : Prop where
  shape : k.shapeOk → k'.shapeOk
  ready : hold = true → (∀ row, k.state ≠ .ready row) → ∀ row, k'.state ≠ .ready row
  refreshing : k.shapeOk → (k'.state = .refreshing ↔ k.state = .refreshing)
  retained : k.shapeOk → (k'.retained ↔ k.retained)
  idle : hold = true → k.state = .idle → k'.state = .idle

theorem BankCtl.Follows.relabel {hold : Bool} {k k' : BankCtl} (state : k'.state = k.state) (current : k'.current = k.current) :
    k.Follows hold k' where
  shape ok := by simpa [BankCtl.shapeOk, state, current] using ok
  ready _ ok := state ▸ ok
  refreshing _ := by rw [state]
  retained _ := by rw [BankCtl.retained, state, BankCtl.retained]
  idle _ ok := state ▸ ok

theorem BankCtl.Follows.trans {hold : Bool} {k k' k'' : BankCtl} (h : k.Follows hold k') (h' : k'.Follows hold k'') :
    k.Follows hold k'' where
  shape ok := h'.shape (h.shape ok)
  ready held ok := h'.ready held (h.ready held ok)
  refreshing ok := (h'.refreshing (h.shape ok)).trans (h.refreshing ok)
  retained ok := (h'.retained (h.shape ok)).trans (h.retained ok)
  idle held ok := h'.idle held (h.idle held ok)

/-- A free bank is IDLE or READY. -/
theorem BankCtl.free_iff {k : BankCtl} :
    k.free = true ↔ k.current = none ∧ (k.state = .idle ∨ ∃ row, k.state = .ready row) := by
  rw [BankCtl.free, Bool.and_eq_true, Option.isNone_iff_eq_none]
  cases k.state <;> simp

theorem BankCtl.Follows.pick (k : BankCtl) : k.Follows false k.pick := by
  obtain same | ⟨a, rest, free, -, picked⟩ := k.pick_cases
  · rw [same]
    exact .relabel rfl rfl
  · rw [picked]
    obtain ⟨-, idle | ⟨row, ready⟩⟩ := BankCtl.free_iff.1 free
    · exact ⟨fun _ => by simp [BankCtl.shapeOk, stateForPick, idle], fun held => by simp at held,
        fun _ => by simp [stateForPick, idle], fun _ => by simp [BankCtl.retained, stateForPick, idle], fun held => by simp at held⟩
    · by_cases hit : a.row = row
      · exact ⟨fun _ => by simp [BankCtl.shapeOk, stateForPick, ready, hit], fun held => by simp at held,
          fun _ => by simp [stateForPick, ready, hit], fun _ => by simp [BankCtl.retained, stateForPick, ready, hit],
          fun held => by simp at held⟩
      · exact ⟨fun _ => by simp [BankCtl.shapeOk, stateForPick, ready, hit], fun held => by simp at held,
          fun _ => by simp [stateForPick, ready, hit], fun _ => by simp [BankCtl.retained, stateForPick, ready, hit],
          fun held => by simp at held⟩

theorem BankCtl.Follows.afterAccess (hold : Bool) (page : PagePolicy) (k : BankCtl) :
    k.Follows hold (k.afterAccess hold page) := by
  unfold BankCtl.afterAccess
  split
  · rename_i row accessing
    split
    · exact ⟨fun _ => trivial, fun _ _ => by simp, fun _ => by simp [accessing], fun _ => by simp [BankCtl.retained, accessing],
        fun _ idle => by simp [accessing] at idle⟩
    · rename_i lifted
      simp only [Bool.or_eq_true, not_or] at lifted
      exact ⟨fun _ => rfl, fun held => absurd held lifted.1, fun _ => by simp [accessing],
        fun _ => by simp [BankCtl.retained, accessing], fun _ idle => by simp [accessing] at idle⟩
  · exact .relabel rfl rfl

theorem BankCtl.Follows.closeEnded (hold : Bool) {k : BankCtl} (closing : k.isClosing = true) :
    k.Follows hold k.closeEnded := by
  obtain ⟨row, closing⟩ : ∃ row, k.state = .closing row := by
    unfold BankCtl.isClosing at closing
    split at closing
    · exact ⟨_, ‹_›⟩
    · cases closing
  unfold BankCtl.closeEnded
  split
  · rename_i a current
    exact ⟨fun _ => by simp [BankCtl.shapeOk, current], fun _ _ => by simp, fun _ => by simp [closing],
      fun _ => by simp [BankCtl.retained, closing], fun _ idle => by simp [closing] at idle⟩
  · rename_i current
    exact ⟨fun _ => current, fun _ _ => by simp, fun _ => by simp [closing], fun _ => by simp [BankCtl.retained, closing],
      fun _ _ => rfl⟩

theorem BankCtl.Follows.openEnded (hold : Bool) (k : BankCtl) : k.Follows hold k.openEnded := by
  unfold BankCtl.openEnded
  split
  · rename_i row a opening current
    exact ⟨fun ok => by simpa [BankCtl.shapeOk, opening] using ok, fun _ _ => by simp, fun _ => by simp [opening],
      fun _ => by simp [BankCtl.retained, opening], fun _ idle => by simp [opening] at idle⟩
  · exact .relabel rfl rfl

/-- The hold takes a bank as it is, or a READY one into the close of its row (R96). -/
theorem BankCtl.Follows.holdPlaced (k : BankCtl) :
    k.Follows true k.holdPlaced ∧ ∀ row, k.holdPlaced.state ≠ .ready row := by
  unfold BankCtl.holdPlaced
  split
  · rename_i row ready
    exact ⟨⟨fun _ => trivial, fun _ _ => by simp, fun _ => by simp [ready], fun _ => by simp [BankCtl.retained, ready],
      fun _ idle => by simp [ready] at idle⟩, by simp⟩
  · rename_i other
    exact ⟨.relabel rfl rfl, other⟩

/-- Nothing is placed in retention outside ENTERING. -/
theorem State.BanksOk.placing_active {s : State} (ok : s.BanksOk) (active : s.refresh.power = .active) :
    s.refresh.placing = none := by
  by_contra placed
  have entering := (ok.placing (Option.isSome_iff_ne_none.2 placed)).1
  rw [active] at entering
  cases entering

/-- With the hold lifted the part is ACTIVE, refreshes nothing and places nothing. -/
theorem State.BanksOk.lifted {s : State} (ok : s.BanksOk) (hold : s.refresh.hold = false) :
    s.refresh.refreshing = false ∧ s.refresh.power = .active ∧ s.refresh.placing = none := by
  obtain ⟨free, active⟩ := ok.holdNeeded hold
  exact ⟨free, active, ok.placing_active active⟩

/-- The banks follow, and what the Refresh Controller says of them stays. -/
theorem State.BanksOk.follow {s t : State} (ok : s.BanksOk) (banks : ∀ b, (s.bank b).Follows s.refresh.hold (t.bank b))
    (hold : t.refresh.hold = s.refresh.hold) (refreshing : t.refresh.refreshing = s.refresh.refreshing)
    (power : t.refresh.power = s.refresh.power) (placing : t.refresh.placing = s.refresh.placing)
    (debt : s.refresh.power = .retained ∨ s.refresh.power = .waking → t.refresh.debt = s.refresh.debt) : t.BanksOk where
  shapes b := (banks b).shape (ok.shapes b)
  heldClosing held b := (banks b).ready (hold ▸ held) (ok.heldClosing (hold ▸ held) b)
  holdNeeded := by
    rw [hold, refreshing, power]
    exact ok.holdNeeded
  refreshing b := by
    rw [(banks b).refreshing (ok.shapes b), refreshing]
    exact ok.refreshing b
  awake awake b := by
    rw [(banks b).retained (ok.shapes b)]
    exact ok.awake (power ▸ awake) b
  asleep asleep := by
    rw [power] at asleep
    obtain ⟨retained, none⟩ := ok.asleep asleep
    exact ⟨fun b => ((banks b).retained (ok.shapes b)).2 (retained b), (debt asleep).trans none⟩
  placing placed := by
    rw [placing] at placed
    obtain ⟨entering, idle⟩ := ok.placing placed
    refine ⟨power.trans entering, fun b => (banks b).idle ?_ (idle b)⟩
    by_contra lifted
    have := (ok.lifted (by simpa using lifted)).2.1
    rw [entering] at this
    cases this

theorem State.BanksOk.same {s t : State} (ok : s.BanksOk) (banks : t.banks = s.banks) (hold : t.refresh.hold = s.refresh.hold)
    (refreshing : t.refresh.refreshing = s.refresh.refreshing) (power : t.refresh.power = s.refresh.power)
    (placing : t.refresh.placing = s.refresh.placing) (debt : t.refresh.debt = s.refresh.debt) : t.BanksOk :=
  ok.follow (fun b => .relabel (by simp [State.bank, banks]) (by simp [State.bank, banks])) hold refreshing power placing
    (fun _ => debt)

theorem State.BanksOk.modBank {s : State} {b : Bank} {f : BankCtl → BankCtl} (ok : s.BanksOk)
    (follows : (s.bank b).Follows s.refresh.hold (f (s.bank b))) : (s.modBank b f).BanksOk := by
  refine ok.follow (fun d => ?_) rfl rfl rfl rfl (fun _ => rfl)
  by_cases same : d = b
  · subst same
    rwa [State.bank_modBank_same]
  · rw [State.bank_modBank_other _ _ same]
    exact .relabel rfl rfl

theorem State.BanksOk.pickBank {s : State} (b : Bank) (ok : s.BanksOk) : (s.pickBank b).BanksOk := by
  cases hold : s.refresh.hold with
  | true => rwa [State.pickBank_held b hold]
  | false =>
    rw [State.pickBank_lifted b hold]
    exact ok.modBank (hold ▸ .pick _)

theorem State.clearPort_bank (p : Port) (reason : LossReason) (s : State) (b : Bank) :
    (s.clearPort p reason).bank b = (s.bank b).dropPort p :=
  State.bank_map (by rw [State.clearPort_frame]) b

theorem State.BanksOk.clearPort {s : State} (p : Port) (reason : LossReason) (ok : s.BanksOk) :
    (s.clearPort p reason).BanksOk := by
  refine ok.follow (fun b => ?_) ?_ ?_ ?_ ?_ (fun _ => ?_)
  · rw [State.clearPort_bank]
    exact .relabel rfl rfl
  all_goals
    rw [State.clearPort_frame]
    rfl

/-- A Refresh Controller under the hold, not RETAINED and placing nothing, with its banks as a refresh leaves them. -/
theorem State.BanksOk.allIdle {t : State} (idle : ∀ b, (t.bank b).state = .idle ∧ (t.bank b).current = none)
    (hold : t.refresh.hold = true) (refreshing : t.refresh.refreshing = false)
    (awake : ¬(t.refresh.power = .retained ∨ t.refresh.power = .waking))
    (placing : t.refresh.placing.isSome = true → t.refresh.power = .entering) : t.BanksOk where
  shapes b := by simp [BankCtl.shapeOk, (idle b).1, (idle b).2]
  heldClosing _ b row := by simp [(idle b).1]
  holdNeeded lifted := by simp [hold] at lifted
  refreshing b := by simp [(idle b).1, refreshing]
  awake _ b := by simp [BankCtl.retained, (idle b).1]
  asleep asleep := absurd asleep awake
  placing placed := ⟨placing placed, fun b => (idle b).1⟩

/-- The four banks REFRESHING together (R105). -/
theorem State.BanksOk.allRefreshing {t : State} (banks : ∀ b, (t.bank b).state = .refreshing ∧ (t.bank b).current = none)
    (hold : t.refresh.hold = true) (refreshing : t.refresh.refreshing = true) (active : t.refresh.power = .active)
    (placing : t.refresh.placing = none) : t.BanksOk where
  shapes b := by simp [BankCtl.shapeOk, (banks b).1, (banks b).2]
  heldClosing _ b row := by simp [(banks b).1]
  holdNeeded lifted := by simp [hold] at lifted
  refreshing b := by simp [(banks b).1, refreshing]
  awake _ b := by simp [BankCtl.retained, (banks b).1]
  asleep asleep := by simp [active] at asleep
  placing placed := by simp [placing] at placed

/-- The hold lifted from banks with no current access: each goes IDLE and picks (R97). -/
theorem State.BanksOk.allLifted {s t : State} (none : ∀ b, (s.bank b).current = none)
    (banks : t.banks = s.banks.map (fun k => k.toIdle.pick)) (hold : t.refresh.hold = false)
    (refreshing : t.refresh.refreshing = false) (active : t.refresh.power = .active) (placing : t.refresh.placing = Option.none) : t.BanksOk := by
  have follows (b : Bank) : BankCtl.Follows false (s.bank b).toIdle (t.bank b) := by
    rw [State.bank_map banks]
    exact .pick _
  have shape (b : Bank) : (s.bank b).toIdle.shapeOk := none b
  refine ⟨fun b => (follows b).shape (shape b), fun held => by simp [hold] at held, fun _ => ⟨refreshing, active⟩, fun b => ?_, fun _ b => ?_,
    fun asleep => by simp [active] at asleep, fun placed => by simp [placing] at placed⟩
  · rw [(follows b).refreshing (shape b), refreshing]
    simp [BankCtl.toIdle]
  · rw [(follows b).retained (shape b)]
    simp [BankCtl.retained, BankCtl.toIdle]

/-- While a refresh is in progress the hold is placed, every bank is REFRESHING, and the part is awake and places
nothing. -/
theorem State.BanksOk.inRefresh {s : State} (ok : s.BanksOk) (refreshing : s.refresh.refreshing = true) :
    s.refresh.hold = true ∧ (∀ b, (s.bank b).current = none) ∧
      ¬(s.refresh.power = .retained ∨ s.refresh.power = .waking) ∧ s.refresh.placing = none := by
  have banks (b : Bank) : (s.bank b).state = .refreshing := (ok.refreshing b).2 refreshing
  refine ⟨?_, fun b => ?_, fun asleep => ?_, ?_⟩
  · by_contra lifted
    have := (ok.holdNeeded (by simpa using lifted)).1
    simp [refreshing] at this
  · simpa [BankCtl.shapeOk, banks b] using ok.shapes b
  · have retained := (ok.asleep asleep).1 0
    simp [BankCtl.retained, banks] at retained
  · by_contra placed
    have idle := (ok.placing (Option.isSome_iff_ne_none.2 placed)).2 0
    simp [banks] at idle

theorem State.BanksOk.refreshOver {s : State} (ok : s.BanksOk) (refreshing : s.refresh.refreshing = true) :
    s.refreshOver.BanksOk := by
  obtain ⟨hold, current, awake, placing⟩ := ok.inRefresh refreshing
  refine .allIdle (fun b => ?_) hold rfl awake (fun placed => ?_)
  · rw [State.bank_map (s := s) (f := BankCtl.toIdle) rfl]
    exact ⟨rfl, current b⟩
  · change s.refresh.placing.isSome = true at placed
    simp [placing] at placed

/-- The placing of the hold on banks of an awake part (R96). -/
theorem State.BanksOk.holdBanks {s t : State} (ok : s.BanksOk) (banks : t.banks = s.banks.map BankCtl.holdPlaced)
    (hold : t.refresh.hold = true) (refreshing : t.refresh.refreshing = s.refresh.refreshing)
    (power : t.refresh.power = s.refresh.power ∨ s.refresh.power = .active ∧ t.refresh.power = .entering)
    (placing : t.refresh.placing = s.refresh.placing) (debt : t.refresh.debt = s.refresh.debt) : t.BanksOk := by
  have follows (b : Bank) : (s.bank b).Follows true (t.bank b) ∧ ∀ row, (t.bank b).state ≠ .ready row := by
    rw [State.bank_map banks]
    exact BankCtl.Follows.holdPlaced _
  refine ⟨fun b => (follows b).1.shape (ok.shapes b), fun _ b => (follows b).2, fun lifted => by simp [hold] at lifted,
    fun b => ?_, fun awake b => ?_, fun asleep => ?_, fun placed => ?_⟩
  · rw [(follows b).1.refreshing (ok.shapes b), refreshing]
    exact ok.refreshing b
  · rw [(follows b).1.retained (ok.shapes b)]
    obtain same | ⟨active, -⟩ := power
    · exact ok.awake (same ▸ awake) b
    · exact ok.awake (.inl active) b
  · obtain same | ⟨-, entering⟩ := power
    · obtain ⟨retained, none⟩ := ok.asleep (same ▸ asleep)
      exact ⟨fun b => ((follows b).1.retained (ok.shapes b)).2 (retained b), debt.trans none⟩
    · simp [entering] at asleep
  · rw [placing] at placed
    obtain ⟨entering, idle⟩ := ok.placing placed
    refine ⟨?_, fun b => (follows b).1.idle rfl (idle b)⟩
    obtain same | ⟨active, -⟩ := power
    · exact same.trans entering
    · simp [active] at entering

theorem State.BanksOk.setRetained {s : State} {mask : BitVec 4} (ok : s.BanksOk) (entering : s.refresh.power = .entering)
    (placing : s.refresh.placing = some mask) : (s.setRetained mask).BanksOk := by
  have idle := (ok.placing (by simp [placing])).2
  have hold : s.refresh.hold = true := by
    by_contra lifted
    have := (ok.holdNeeded (by simpa using lifted)).2
    simp [entering] at this
  have free : s.refresh.refreshing = false := by
    by_contra refreshing
    have := (ok.refreshing 0).2 (by simpa using refreshing)
    simp [idle] at this
  have bank (b : Bank) : ((s.setRetained mask).bank b).retained ∧ ((s.setRetained mask).bank b).current = none := by
    rw [State.setRetained_bank]
    have current : (s.bank b).current = none := by simpa [BankCtl.shapeOk, idle b] using ok.shapes b
    refine ⟨?_, current⟩
    unfold BankCtl.retained retainedBank
    split
    · exact .inl rfl
    · exact .inr rfl
  refine ⟨fun b => ?_, fun _ b row ready => ?_, fun lifted => ?_, fun b => ?_, fun awake => ?_, fun _ => ⟨fun b => (bank b).1, rfl⟩,
    fun placed => ?_⟩
  · obtain state | state := (bank b).1 <;> simpa [BankCtl.shapeOk, state] using (bank b).2
  · obtain state | state := (bank b).1 <;> simp [state] at ready
  · change s.refresh.hold = false at lifted
    simp [hold] at lifted
  · change _ ↔ s.refresh.refreshing = true
    obtain state | state := (bank b).1 <;> simp [state, free]
  · exact absurd awake (by simp [State.setRetained])
  · exact absurd placed (by simp [State.setRetained])

theorem State.BanksOk.wakeBanks {s : State} (ok : s.BanksOk) (waking : s.refresh.power = .waking) : s.wakeBanks.BanksOk := by
  have retained := (ok.asleep (.inr waking)).1
  refine .allLifted (s := s) (fun b => ?_) rfl rfl ?_ rfl ?_
  · obtain state | state := retained b <;> simpa [BankCtl.shapeOk, state] using ok.shapes b
  · change s.refresh.refreshing = false
    by_contra refreshing
    have := (ok.refreshing 0).2 (by simpa using refreshing)
    obtain state | state := retained 0 <;> simp [state] at this
  · change s.refresh.placing = none
    by_contra placed
    have := (ok.placing (Option.isSome_iff_ne_none.2 placed)).1
    simp [waking] at this

/-- The exit from retention starts: the banks stay retained (R115). -/
theorem State.BanksOk.startExit {s : State} (ok : s.BanksOk) (retained : s.refresh.power = .retained) : s.startExit.BanksOk where
  shapes := ok.shapes
  heldClosing := ok.heldClosing
  holdNeeded lifted := by
    have := (ok.holdNeeded lifted).2
    simp [retained] at this
  refreshing := ok.refreshing
  awake awake := absurd awake (by simp [State.startExit])
  asleep _ := ok.asleep (.inl retained)
  placing placed := by
    have := (ok.placing placed).1
    simp [retained] at this

/-- ENTERING under a hold that a refresh placed (R111). -/
theorem State.BanksOk.enterHeld {s : State} (ok : s.BanksOk) (active : s.refresh.power = .active)
    (hold : s.refresh.hold = true) : (s.modRefresh (fun r => { r with power := .entering })).BanksOk where
  shapes := ok.shapes
  heldClosing := ok.heldClosing
  holdNeeded lifted := by
    change s.refresh.hold = false at lifted
    simp [hold] at lifted
  refreshing := ok.refreshing
  awake _ := ok.awake (.inl active)
  asleep asleep := by simp at asleep
  placing placed := by
    have := (ok.placing placed).1
    simp [active] at this

theorem reset_bank (b : Bank) : State.reset.bank b = { state := .idle, current := none, queue := [] } := Four.get_all _ b

theorem reset_banksOk : State.reset.BanksOk where
  shapes b := by simp [reset_bank, BankCtl.shapeOk]
  heldClosing _ b row := by simp [reset_bank]
  holdNeeded _ := ⟨rfl, rfl⟩
  refreshing b := by
    rw [reset_bank]
    simp [State.reset]
  awake _ b := by simp [reset_bank, BankCtl.retained]
  asleep asleep := by simp [State.reset] at asleep
  placing placed := by simp [State.reset] at placed

/-- Every move keeps bank states, hold, refresh and power state in agreement. -/
theorem banksOk_moves : TimedMoves (fun _ => True) (fun _ => True) State.BanksOk where
  currentKnown _ _ := ⟨trivial, fun _ _ => trivial⟩
  parkedKnown _ _ := trivial
  stampedKnown _ _ := trivial
  flightKnown _ _ := trivial
  partKnown _ := trivial
  fitsKnown _ := trivial
  inRangeKnown _ _ _ := trivial
  nextKnown _ _ := trivial
  choices _ ok := ok.same rfl rfl rfl rfl rfl rfl
  pending _ ok := ok.same rfl rfl rfl rfl rfl rfl
  clock _ ok := ok.same rfl rfl rfl rfl rfl rfl
  advance ok := ok.same rfl rfl rfl rfl rfl rfl
  reset _ := reset_banksOk.same rfl rfl rfl rfl rfl rfl
  release ok := ok.same rfl rfl rfl rfl rfl rfl
  hpu ok _ := ok.same rfl rfl rfl rfl rfl rfl
  validFrame _ ok := ok.same rfl rfl rfl rfl rfl rfl
  holdJoin _ ok _ _ := ok.same rfl rfl rfl rfl rfl rfl
  goUp ok _ _ := ok.same rfl rfl rfl rfl rfl rfl
  rejoin ok _ _ := ok.same rfl rfl rfl rfl rfl rfl
  leave ok _ _ := ok.same rfl rfl rfl rfl rfl rfl
  lostLink ok _ := ok.same rfl rfl rfl rfl rfl rfl
  clear reason ok _ := ok.clearPort _ reason
  clearLost reason ok _ := State.BanksOk.clearPort _ reason (ok.same rfl rfl rfl rfl rfl rfl)
  teardown ok _ := ok.same rfl rfl rfl rfl rfl rfl
  raise p e ok := by
    rw [State.raise_frame]
    exact ok.same rfl rfl rfl rfl rfl rfl
  fetch _ _ ok := ok.same rfl rfl rfl rfl rfl rfl
  attention _ ok _ := ok.same rfl rfl rfl rfl rfl rfl
  addWatch _ _ _ ok _ _ := ok.same rfl rfl rfl rfl rfl rfl
  removeWatch _ ok := ok.same rfl rfl rfl rfl rfl rfl
  setLast _ _ ok := ok.same rfl rfl rfl rfl rfl rfl
  clearWatches ok := ok.same rfl rfl rfl rfl rfl rfl
  unparkAll ok := ok.same rfl rfl rfl rfl rfl rfl
  unpark _ _ ok := ok.same rfl rfl rfl rfl rfl rfl
  renew _ _ _ _ ok := ok.same rfl rfl rfl rfl rfl rfl
  parkNow ok _ _ _ := ok.same rfl rfl rfl rfl rfl rfl
  putCell ok _ _ := by
    rw [State.putCell_frame]
    exact ok.same rfl rfl rfl rfl rfl rfl
  loseCells _ ok := ok.same rfl rfl rfl rfl rfl rfl
  enqueue ok _ _ := State.BanksOk.pickBank _ (ok.modBank (.relabel rfl rfl))
  pickBank b ok := ok.pickBank b
  afterAccess b ok := ok.modBank (.afterAccess _ _ _)
  closeEnded ok closing := ok.modBank (.closeEnded _ closing)
  openEnded b ok := ok.modBank (.openEnded _ _)
  interval _ ok := ok.same rfl rfl rfl rfl rfl rfl
  overrun ok := ok.same rfl rfl rfl rfl rfl rfl
  owe ok counts _ := ok.follow (fun b => .relabel rfl rfl) rfl rfl rfl rfl (fun asleep => by
    obtain counts | counts := counts <;> simp [counts] at asleep)
  holdBanks ok := ok.holdBanks rfl rfl rfl (.inl rfl) rfl rfl
  beginRefresh {s} ok closed active := by
    obtain ⟨hold, -, idle⟩ := State.heldClosed_iff.1 closed
    refine .allRefreshing (fun b => ?_) hold rfl active (ok.placing_active active)
    rw [State.bank_map (s := s) (f := fun k => { k with state := .refreshing }) rfl]
    exact ⟨rfl, (idle b).2⟩
  refreshOver ok refreshing := ok.refreshOver refreshing
  refreshAgain {s} ok refreshing active := by
    obtain ⟨hold, current, -, placing⟩ := ok.inRefresh refreshing
    refine .allRefreshing (fun b => ?_) hold rfl active placing
    rw [State.bank_map (s := s) (f := fun k => { k with state := .refreshing }) rfl]
    exact ⟨rfl, current b⟩
  refreshLift {s} ok refreshing active := by
    obtain ⟨-, current, -, placing⟩ := ok.inRefresh refreshing
    exact .allLifted (s := s) current rfl rfl rfl active placing
  enterFree ok active _ := ok.holdBanks rfl rfl rfl (.inr ⟨active, rfl⟩) rfl rfl
  enterHeld ok active hold := ok.enterHeld active hold
  beginPlacing mask ok closed entering := by
    obtain ⟨hold, free, idle⟩ := State.heldClosed_iff.1 closed
    exact .allIdle idle hold free (by simp [entering]) (fun _ => entering)
  setRetained ok entering placing := ok.setRetained entering placing
  startExit ok retained := ok.startExit retained
  wakeBanks ok waking := ok.wakeBanks waking
  votes ok _ := ok.same rfl rfl rfl rfl rfl rfl
  config ok _ := ok.same rfl rfl rfl rfl rfl rfl
  table ok _ := ok.same rfl rfl rfl rfl rfl rfl

/-- Settles O57, by the moves a step is made of. -/
theorem everyStepKeepsBanksAndPowerInStep : Obligations.EveryStepKeepsBanksAndPowerInStep := by
  unfold Obligations.EveryStepKeepsBanksAndPowerInStep
  exact fun _ _ ok run => banksOk_moves.step ok run

end Sys2Proof.Machine

namespace Sys2Proof.Machine

/-! ### Ports (R41, R63, R77, R82, R146, R147, R159) -/

/-- What link, port state, timers and held JOIN of an HPU say of each other and of the port's teardown record. -/
structure Hpu.Fits (h : Hpu) (record : Bool) : Prop where
  down : h.port = .down → h.link = .dead
  linked : h.port = .linked → h.link = .alive
  up : h.port = .up → h.link = .alive
  dead : h.link = .dead → h.recvTimer = none ∧ h.sendTimer = none ∧ h.sendList = []
  alive : h.link = .alive → h.recvTimer.isSome = true ∧ h.sendTimer.isSome = true
  heldJoin : h.heldJoin.isSome = true → h.port = .clearing ∧ h.link = .alive
  record : record = true ↔ h.port = .clearing

theorem State.PortOk.fits {s : State} {p : Port} (ok : s.PortOk p) : (s.hpu p).Fits (s.teardown.get p).isSome :=
  ⟨ok.down, ok.linked, ok.up, ok.dead, ok.alive, ok.heldJoin, ok.record⟩

theorem State.PortOk.of {s : State} {p : Port} (fits : (s.hpu p).Fits (s.teardown.get p).isSome)
    (absent : (s.hpu p).port ≠ .up → s.Absent p) : s.PortOk p :=
  ⟨fits.down, fits.linked, fits.up, fits.dead, fits.alive, fits.heldJoin, fits.record, absent⟩

/-- A port that held nothing holds nothing yet: what it holds is what it held, or less. -/
structure NoGain (p : Port) (s t : State) : Prop where
  park : (∀ e ∈ s.park, e.port ≠ p) → ∀ e ∈ t.park, e.port ≠ p
  watches : (∀ w ∈ s.watches, w.port ≠ p) → ∀ w ∈ t.watches, w.port ≠ p
  events : (s.eventPort p).queue = [] → (t.eventPort p).queue = []
  attention : (s.eventPort p).attention = false → (t.eventPort p).attention = false
  votes : s.refresh.votes.get p = false → t.refresh.votes.get p = false
  wakes : (∀ x ∈ s.refresh.heldWakes, x.1 ≠ p) → ∀ x ∈ t.refresh.heldWakes, x.1 ≠ p
  reopens : s.config.reopenVotes.get p = false → t.config.reopenVotes.get p = false
  commits : s.config.commits.get p = none → t.config.commits.get p = none
  held : (∀ x ∈ s.config.heldCommits ++ s.config.heldReopens, x.1 ≠ p) →
    ∀ x ∈ t.config.heldCommits ++ t.config.heldReopens, x.1 ≠ p

theorem State.Absent.noGain {p : Port} {s t : State} (absent : s.Absent p) (gain : NoGain p s t) : t.Absent p where
  park := gain.park absent.park
  watches := gain.watches absent.watches
  events := gain.events absent.events
  attention := gain.attention absent.attention
  votes := ⟨gain.votes absent.votes.1, gain.reopens absent.votes.2.1, gain.commits absent.votes.2.2⟩
  heldRequests := by
    have held := gain.held (fun x hx => absent.heldRequests x (by
      rw [List.append_assoc]
      exact List.mem_append_right _ hx))
    have wakes := gain.wakes (fun x hx => absent.heldRequests x (by
      rw [List.append_assoc]
      exact List.mem_append_left _ hx))
    intro x hx
    rw [List.append_assoc] at hx
    exact (List.mem_append.1 hx).elim (wakes x) (held x)

theorem NoGain.same {p : Port} {s t : State} (park : t.park = s.park) (watches : t.watches = s.watches)
    (events : t.events = s.events) (votes : t.refresh.votes = s.refresh.votes)
    (wakes : t.refresh.heldWakes = s.refresh.heldWakes) (config : t.config = s.config) : NoGain p s t where
  park := by rw [park]; exact id
  watches := by rw [watches]; exact id
  events := by rw [State.eventPort, State.eventPort, events]; exact id
  attention := by rw [State.eventPort, State.eventPort, events]; exact id
  votes := by rw [votes]; exact id
  wakes := by rw [wakes]; exact id
  reopens := by rw [config]; exact id
  commits := by rw [config]; exact id
  held := by rw [config]; exact id

/-- Links, port states and records stay, and only UP ports gain. -/
theorem State.PortsOk.gain {s t : State} (ok : s.PortsOk) (hpus : t.hpus = s.hpus)
    (record : ∀ q, (t.teardown.get q).isSome = (s.teardown.get q).isSome)
    (gain : ∀ p, (s.hpu p).port ≠ .up → NoGain p s t) : t.PortsOk := fun p => by
  have hpu : t.hpu p = s.hpu p := by rw [State.hpu, hpus, ← State.hpu]
  refine .of ?_ (fun absent => ?_)
  · rw [hpu, record]
    exact (ok p).fits
  · rw [hpu] at absent
    exact ((ok p).absent absent).noGain (gain p absent)

theorem State.PortsOk.same {s t : State} (ok : s.PortsOk) (hpus : t.hpus = s.hpus) (teardown : t.teardown = s.teardown)
    (park : t.park = s.park) (watches : t.watches = s.watches) (events : t.events = s.events)
    (votes : t.refresh.votes = s.refresh.votes) (wakes : t.refresh.heldWakes = s.refresh.heldWakes)
    (config : t.config = s.config) : t.PortsOk :=
  ok.gain hpus (fun q => by rw [teardown]) (fun _ _ => .same park watches events votes wakes config)

/-- One port's HPU changes, with its teardown record, and the port is UP or held nothing before. -/
theorem State.PortsOk.onePort {s t : State} {p : Port} (others : ∀ q, q ≠ p → s.PortOk q)
    (hpus : ∀ q, q ≠ p → t.hpu q = s.hpu q)
    (record : ∀ q, q ≠ p → (t.teardown.get q).isSome = (s.teardown.get q).isSome)
    (fits : (t.hpu p).Fits (t.teardown.get p).isSome) (absent : (t.hpu p).port ≠ .up → t.Absent p)
    (gain : ∀ q, q ≠ p → NoGain q s t) : t.PortsOk := fun q => by
  by_cases same : q = p
  · subst same
    exact .of fits absent
  · refine .of ?_ (fun other => ?_)
    · rw [hpus q same, record q same]
      exact (others q same).fits
    · rw [hpus q same] at other
      exact ((others q same).absent other).noGain (gain q same)

/-- One port's HPU changes, and its port state stays or is neither UP before nor after. -/
theorem State.PortsOk.newHpu {s : State} {p : Port} {k : Hpu} (ok : s.PortsOk) (fits : k.Fits (s.teardown.get p).isSome)
    (port : k.port ≠ .up → (s.hpu p).port ≠ .up) : State.PortsOk { s with hpus := s.hpus.set p k } := by
  have own : State.hpu { s with hpus := s.hpus.set p k } p = k := by simp [State.hpu]
  have other (q : Port) (h : q ≠ p) : State.hpu { s with hpus := s.hpus.set p k } q = s.hpu q := by simp [State.hpu, h]
  refine .onePort (p := p) (fun q _ => ok q) other (fun _ _ => rfl) (own.symm ▸ fits) (fun absent => ?_)
    (fun _ _ => .same rfl rfl rfl rfl rfl rfl)
  rw [own] at absent
  exact ((ok p).absent (port absent)).noGain (.same rfl rfl rfl rfl rfl rfl)

theorem Hpu.Alike.fits {h k : Hpu} {record : Bool} (alike : h.Alike k) (fits : h.Fits record) : k.Fits record where
  down := by rw [alike.port, alike.link]; exact fits.down
  linked := by rw [alike.port, alike.link]; exact fits.linked
  up := by rw [alike.port, alike.link]; exact fits.up
  dead dead := by
    rw [alike.link] at dead
    obtain ⟨recv, send, list⟩ := fits.dead dead
    refine ⟨alike.recv.elim (·.trans recv) ?_, alike.send.elim (·.trans send) ?_, alike.sendList.elim (·.trans list) ?_⟩
    · rintro ⟨alive, -⟩
      simp [dead] at alive
    · rintro ⟨alive, -⟩
      simp [dead] at alive
    · intro alive
      simp [dead] at alive
  alive alive := by
    rw [alike.link] at alive
    obtain ⟨recv, send⟩ := fits.alive alive
    exact ⟨alike.recv.elim (fun same => by rw [same]; exact recv) (·.2), alike.send.elim (fun same => by rw [same]; exact send) (·.2)⟩
  heldJoin := by rw [alike.heldJoin, alike.port, alike.link]; exact fits.heldJoin
  record := by rw [alike.port]; exact fits.record

/-- A valid frame brings the link up and takes a DOWN port to LINKED (R148). -/
theorem Hpu.Fits.validFrame {h : Hpu} {record : Bool} (fits : h.Fits record) : h.validFrame.Fits record := by
  have port := Hpu.validFrame_port h
  have running : h.validFrame.recvTimer.isSome = true ∧ h.validFrame.sendTimer.isSome = true := by
    unfold Hpu.validFrame
    split
    · rename_i alive
      exact ⟨rfl, (fits.alive alive).2⟩
    · exact ⟨rfl, rfl⟩
  refine ⟨fun down => ?_, fun _ => Hpu.validFrame_link h, fun _ => Hpu.validFrame_link h, fun dead => ?_, fun _ => running,
    fun held => ?_, ?_⟩
  · rw [port] at down
    split at down
    · cases down
    · rename_i still
      exact absurd ⟨fits.down down, down⟩ still
  · rw [Hpu.validFrame_link] at dead
    cases dead
  · rw [Hpu.validFrame_heldJoin] at held
    have clearing := (fits.heldJoin held).1
    exact ⟨by simp [port, clearing], Hpu.validFrame_link h⟩
  · rw [fits.record, port]
    split
    · rename_i down
      simp [down.2]
    · exact Iff.rfl

theorem Hpu.Fits.lostLink {h : Hpu} {record : Bool} (fits : h.Fits record) (other : h.port ≠ .up) :
    h.lostLink.Fits record := by
  have port : h.lostLink.port = if h.port = .linked then .down else h.port := rfl
  refine ⟨fun _ => rfl, fun linked => ?_, fun up => ?_, fun _ => ⟨rfl, rfl, rfl⟩, fun alive => (by cases alive),
    fun held => (by cases held), ?_⟩
  · rw [port] at linked
    split at linked
    · cases linked
    · rename_i not
      exact absurd linked not
  · rw [port] at up
    split at up
    · cases up
    · exact absurd up other
  · rw [fits.record, port]
    split
    · rename_i linked
      simp [linked]
    · exact Iff.rfl

theorem State.PortsOk.raise {s : State} (p : Port) (e : Event) (ok : s.PortsOk) : (s.raise p e).PortsOk := by
  by_cases up : (s.hpu p).port = .up
  · rw [State.raise_up e up]
    refine ok.gain rfl (fun _ => rfl) (fun q absent => ?_)
    have other : q ≠ p := fun same => absent (same ▸ up)
    exact ⟨id, id, by simp [State.eventPort, other], by simp [State.eventPort, other], id, id, id, id, id⟩
  · rwa [State.raise_absent e up]

/-- An event port changes in nothing that an absent port may not have. -/
theorem State.PortsOk.modEvents {s : State} {p : Port} {f : EventPort → EventPort} (ok : s.PortsOk)
    (kept : (s.hpu p).port = .up ∨
      ((s.eventPort p).queue = [] → (f (s.eventPort p)).queue = []) ∧ (f (s.eventPort p)).attention = (s.eventPort p).attention) :
    (s.modEvents p f).PortsOk := by
  refine ok.gain rfl (fun _ => rfl) (fun q absent => ?_)
  by_cases same : q = p
  · subst same
    obtain up | ⟨queue, attention⟩ := kept
    · exact absurd up absent
    · exact ⟨id, id, by rwa [State.eventPort_modEvents_same], by rw [State.eventPort_modEvents_same, attention]; exact id,
        id, id, id, id, id⟩
  · exact ⟨id, id, by rw [State.eventPort_modEvents_other _ _ same]; exact id,
      by rw [State.eventPort_modEvents_other _ _ same]; exact id, id, id, id, id, id⟩

/-- A port goes UP on its ALIVE link, with no record and no held JOIN. -/
theorem State.PortsOk.goUp {s : State} {p : Port} (others : ∀ q, q ≠ p → s.PortOk q) (alive : (s.hpu p).link = .alive)
    (timers : (s.hpu p).recvTimer.isSome = true ∧ (s.hpu p).sendTimer.isSome = true) (held : (s.hpu p).heldJoin = none)
    (idle : s.teardown.get p = none) : (s.goUp p).PortsOk := by
  have own : (s.goUp p).hpu p = { s.hpu p with port := .up } := by simp [State.goUp, State.hpu]
  refine .onePort (p := p) others (fun q h => ?_) (fun _ _ => rfl) ?_ (fun absent => ?_) (fun q h => ?_)
  · simp [State.goUp, State.hpu, h]
  · rw [own]
    change Hpu.Fits _ (s.teardown.get p).isSome
    rw [idle]
    exact ⟨fun h => (by cases h), fun h => (by cases h), fun _ => alive, fun dead => (by simp [alive] at dead), fun _ => timers,
      fun h => (by simp [held] at h), by simp⟩
  · rw [own] at absent
    exact absurd rfl absent
  · have ports : (s.goUp p).eventPort q = s.eventPort q := State.eventPort_modEvents_other _ _ h
    exact ⟨id, id, by rw [ports]; exact id, by rw [ports]; exact id, id, id, id, id, id⟩

theorem List.mem_append_filter_ne {l m : List (Port × Tag)} {p : Port} {x : Port × Tag}
    (hx : x ∈ l.filter (fun x => x.1 != p) ++ m.filter (fun x => x.1 != p)) : x ∈ l ++ m ∧ x.1 ≠ p := by
  rw [← List.filter_append] at hx
  exact ⟨List.mem_of_mem_filter hx, by simpa using (List.mem_filter.1 hx).2⟩

/-- A teardown start leaves its port CLEARING with nothing, and takes nothing to another (R160). -/
theorem State.PortsOk.clearPort {s : State} {p : Port} (reason : LossReason) (others : ∀ q, q ≠ p → s.PortOk q)
    (fits : (s.hpu p).startTeardown.Fits true) : (s.clearPort p reason).PortsOk := by
  unfold State.clearPort State.raiseOthers
  refine foldl_kept _ (fun _ _ _ ht => ht.raise _ _) (.onePort (s := s) (p := p) others (fun q h => ?_) (fun q h => ?_) ?_
    (fun _ => ?_) (fun q h => ?_))
  · simp [State.hpu, h]
  · simp [h]
  · simpa [State.hpu] using fits
  · refine ⟨fun e he => by simpa using (List.mem_filter.1 he).2, fun w hw => by simpa using (List.mem_filter.1 hw).2, ?_, ?_,
      ?_, fun x hx => ?_⟩
    · simp [State.eventPort]
    · simp [State.eventPort]
    · simp [RefreshCtl.dropPort, ConfigCtl.dropPort]
    · rw [List.append_assoc] at hx
      obtain hx | hx := List.mem_append.1 hx
      · simpa using (List.mem_filter.1 hx).2
      · exact (List.mem_append_filter_ne hx).2
  · refine ⟨fun none e he => none e (List.mem_of_mem_filter he), fun none w hw => none w (List.mem_of_mem_filter hw), ?_, ?_, ?_,
      fun none x hx => none x (List.mem_of_mem_filter hx), ?_, ?_, fun none x hx => none x (List.mem_append_filter_ne hx).1⟩
    all_goals simp [State.eventPort, RefreshCtl.dropPort, ConfigCtl.dropPort, h]

theorem Hpu.Fits.startTeardown {h : Hpu} (dead : h.link = .dead → h.recvTimer = none ∧ h.sendTimer = none ∧ h.sendList = [])
    (alive : h.link = .alive → h.recvTimer.isSome = true ∧ h.sendTimer.isSome = true) (held : h.heldJoin = none) :
    h.startTeardown.Fits true :=
  ⟨fun h => (by cases h), fun h => (by cases h), fun h => (by cases h), dead, alive,
    fun some => by
      change h.heldJoin.isSome = true at some
      simp [held] at some,
    by simp [Hpu.startTeardown]⟩

/-- Only a port in CLEARING holds a JOIN (R156). -/
theorem State.PortOk.heldJoin_none {s : State} {p : Port} (ok : s.PortOk p) (port : (s.hpu p).port ≠ .clearing) :
    (s.hpu p).heldJoin = none := by
  by_contra held
  exact port (ok.heldJoin (Option.isSome_iff_ne_none.2 held)).1

/-- A port that is not in CLEARING has no teardown record (R159). -/
theorem State.PortOk.record_none {s : State} {p : Port} (ok : s.PortOk p) (port : (s.hpu p).port ≠ .clearing) :
    s.teardown.get p = none := by
  by_contra active
  exact port (ok.record.1 (Option.isSome_iff_ne_none.2 active))

theorem reset_portsOk : State.reset.PortsOk := fun p => by
  have hpu : State.reset.hpu p = Hpu.reset := Four.get_all _ p
  have idle : State.reset.teardown.get p = none := Four.get_all _ p
  refine .of ?_ (fun _ => ⟨fun _ he => absurd he List.not_mem_nil, fun _ he => absurd he List.not_mem_nil, ?_, ?_, ?_,
    fun _ he => absurd he List.not_mem_nil⟩)
  · rw [hpu, idle]
    exact ⟨fun _ => rfl, fun h => (by cases h), fun h => (by cases h), fun _ => ⟨rfl, rfl, rfl⟩, fun h => (by cases h),
      fun h => (by cases h), by simp [Hpu.reset]⟩
  all_goals simp [State.reset, State.eventPort]

theorem State.PortsOk.advance {s : State} (ok : s.PortsOk) : s.advance.PortsOk := fun p => by
  have hpu : s.advance.hpu p = (s.hpu p).tick := Four.get_map _ _ _
  have fits := (ok p).fits
  refine .of ?_ (fun absent => ?_)
  · rw [hpu]
    exact ⟨fits.down, fits.linked, fits.up, fun dead => by
        obtain ⟨recv, send, list⟩ := fits.dead dead
        exact ⟨by simp [Hpu.tick, recv], by simp [Hpu.tick, send], list⟩,
      fun alive => by simpa [Hpu.tick] using fits.alive alive, fits.heldJoin, fits.record⟩
  · rw [hpu] at absent
    exact ((ok p).absent absent).noGain (.same rfl rfl rfl rfl rfl rfl)

theorem State.PortOk.elsewhere {s t : State} {q : Port} (ok : s.PortOk q) (hpu : t.hpu q = s.hpu q)
    (record : t.teardown.get q = s.teardown.get q) (gain : NoGain q s t) : t.PortOk q := by
  refine .of (by rw [hpu, record]; exact ok.fits) (fun absent => ?_)
  rw [hpu] at absent
  exact (ok.absent absent).noGain gain

theorem State.PortsOk.rejoin {s : State} {p : Port} {t : Tag} (ok : s.PortsOk)
    (held : (s.hpu p).heldJoin = some t) :
    (((s.dropRecord p).modHpu p (fun h => { h with heldJoin := none })).goUp p).PortsOk := by
  have alive : (s.hpu p).link = .alive := ((ok p).heldJoin (by simp [held])).2
  have own : ((s.dropRecord p).modHpu p (fun h => { h with heldJoin := none })).hpu p = { s.hpu p with heldJoin := none } := by
    rw [State.hpu_modHpu_same]
    rfl
  refine .goUp (fun q other => (ok q).elsewhere ?_ ?_ (.same rfl rfl rfl rfl rfl rfl)) ?_ ?_ ?_ ?_
  · exact State.hpu_modHpu_other (s.dropRecord p) _ other
  · exact Four.get_set_other _ _ other
  · rw [own]
    exact alive
  · rw [own]
    exact (ok p).alive alive
  · rw [own]
  · exact Four.get_set_same _ _ _

theorem State.PortsOk.leave {s : State} {p : Port} {r : TeardownRec} (ok : s.PortsOk)
    (active : s.teardown.get p = some r) (held : (s.hpu p).heldJoin = none) :
    ((s.dropRecord p).modHpu p (fun h => { h with port := if h.link = .alive then .linked else .down })).PortsOk := by
  have clearing : (s.hpu p).port = .clearing := (ok p).record.1 (by simp [active])
  have fits := (ok p).fits
  refine .onePort (s := s) (p := p) (fun q _ => ok q) (fun q other => State.hpu_modHpu_other (s.dropRecord p) _ other)
    (fun q other => ?_) ?_ (fun _ => ((ok p).absent (by simp [clearing])).noGain (.same rfl rfl rfl rfl rfl rfl))
    (fun _ _ => .same rfl rfl rfl rfl rfl rfl)
  · exact congrArg Option.isSome (Four.get_set_other _ _ other)
  · have idle : ((s.dropRecord p).modHpu p
        (fun h => { h with port := if h.link = .alive then .linked else .down })).teardown.get p = none :=
      Four.get_set_same _ _ _
    rw [idle, State.hpu_modHpu_same]
    change Hpu.Fits { s.hpu p with port := if (s.hpu p).link = .alive then .linked else .down } false
    cases link : (s.hpu p).link with
    | alive =>
      exact ⟨fun h => by simp at h, fun _ => link, fun _ => link, fits.dead, fits.alive, fun some => by simp [held] at some,
        by simp⟩
    | dead =>
      exact ⟨fun _ => link, fun h => by simp at h, fun h => by simp at h, fits.dead, fits.alive,
        fun some => by simp [held] at some, by simp⟩

theorem State.PortsOk.clear {s : State} {p : Port} (reason : LossReason) (ok : s.PortsOk) (up : (s.hpu p).port = .up) :
    (s.clearPort p reason).PortsOk :=
  .clearPort reason (fun q _ => ok q) (.startTeardown (ok p).dead (ok p).alive ((ok p).heldJoin_none (by simp [up])))

theorem State.PortsOk.clearLost {s : State} {p : Port} (reason : LossReason) (ok : s.PortsOk) :
    ((s.modHpu p Hpu.loseLink).clearPort p reason).PortsOk := by
  refine .clearPort reason (fun q other => (ok q).elsewhere (State.hpu_modHpu_other _ _ other) rfl
    (.same rfl rfl rfl rfl rfl rfl)) ?_
  rw [State.hpu_modHpu_same]
  exact .startTeardown (fun _ => ⟨rfl, rfl, rfl⟩) (fun alive => by cases alive) rfl

/-- What only UP ports gain, no absent port gains. -/
theorem Four.not_gained {α : Type} {x y : Four α} {none : α} {up : Prop} {p : Port} (absent : ¬up)
    (fits : y.get p = none ∨ y.get p = x.get p ∨ up) (before : x.get p = none) : y.get p = none := by
  obtain now | same | now := fits
  · exact now
  · exact same.trans before
  · exact absurd now absent

theorem held_not_gained {l m : List (Port × Tag)} {s : State} {p : Port} (absent : (s.hpu p).port ≠ .up)
    (fits : ∀ x ∈ m, x ∈ l ∨ (s.hpu x.1).port = .up) (before : ∀ x ∈ l, x.1 ≠ p) : ∀ x ∈ m, x.1 ≠ p := by
  intro x hx same
  obtain old | up := fits x hx
  · exact before x old same
  · exact absent (same ▸ up)

theorem State.PortsOk.config {s : State} {k : ConfigCtl} {F : InitFields → Prop} (ok : s.PortsOk) (fits : s.ConfigFits F k) :
    State.PortsOk { s with config := k } := by
  refine ok.gain rfl (fun _ => rfl) (fun p absent => ⟨id, id, id, id, id, id, Four.not_gained absent (fits.votes p),
    Four.not_gained absent (fits.commits p), ?_⟩)
  exact held_not_gained absent (fun x hx => (List.mem_append.1 hx).elim
    (fun hx => (fits.commitsHeld x hx).imp_left (List.mem_append_left _))
    (fun hx => (fits.reopensHeld x hx).imp_left (List.mem_append_right _)))

theorem State.PortsOk.newPark {s : State} {l : List ParkEntry} (ok : s.PortsOk)
    (fits : ∀ e ∈ l, (∃ x ∈ s.park, x.port = e.port) ∨ (s.hpu e.port).port = .up) : State.PortsOk { s with park := l } := by
  refine ok.gain rfl (fun _ => rfl) (fun p absent => ⟨fun none e he same => ?_, id, id, id, id, id, id, id, id⟩)
  obtain ⟨x, hx, old⟩ | up := fits e he
  · exact none x hx (old.trans same)
  · exact absent (same ▸ up)

theorem State.PortsOk.newWatches {s : State} {l : List Watch} (ok : s.PortsOk)
    (fits : ∀ w ∈ l, (∃ x ∈ s.watches, x.port = w.port) ∨ (s.hpu w.port).port = .up) :
    State.PortsOk { s with watches := l } := by
  refine ok.gain rfl (fun _ => rfl) (fun p absent => ⟨id, fun none w hw same => ?_, id, id, id, id, id, id, id⟩)
  obtain ⟨x, hx, old⟩ | up := fits w hw
  · exact none x hx (old.trans same)
  · exact absent (same ▸ up)

theorem State.unlist_record (p : Port) (c : CellIx) (s : State) (q : Port) :
    ((s.unlist p c).teardown.get q).isSome = (s.teardown.get q).isSome := by
  change ((s.teardown.set p _).get q).isSome = _
  rw [Four.get_set]
  split
  · rename_i same
    rw [same, Option.isSome_map]
  · rfl

/-- A cell record written changes of the teardown records the cells that walks have passed alone (R163). -/
theorem State.putCell_record (c : CellIx) (r : CellRec) (s : State) (q : Port) :
    ((s.putCell c r).teardown.get q).isSome = (s.teardown.get q).isSome := by
  unfold State.putCell State.moveStamp
  split
  · rfl
  · cases (s.readCell c).owner with
    | none => cases r.owner <;> rfl
    | some p => cases r.owner <;> exact State.unlist_record p c s q

/-- Every move keeps links, ports and teardown records in agreement. -/
theorem portsOk_moves : TimedMoves (fun _ => True) (fun _ => True) State.PortsOk where
  currentKnown _ _ := ⟨trivial, fun _ _ => trivial⟩
  parkedKnown _ _ := trivial
  stampedKnown _ _ := trivial
  flightKnown _ _ := trivial
  partKnown _ := trivial
  fitsKnown _ := trivial
  inRangeKnown _ _ _ := trivial
  nextKnown _ _ := trivial
  choices _ ok := ok.same rfl rfl rfl rfl rfl rfl rfl rfl
  pending _ ok := ok.same rfl rfl rfl rfl rfl rfl rfl rfl
  clock _ ok := ok.same rfl rfl rfl rfl rfl rfl rfl rfl
  advance ok := ok.advance
  reset _ := reset_portsOk.same rfl rfl rfl rfl rfl rfl rfl rfl
  release ok := ok.same rfl rfl rfl rfl rfl rfl rfl rfl
  hpu {_ p _} ok alike := ok.newHpu (alike.fits (ok p).fits) (fun port => alike.port ▸ port)
  validFrame {s} p ok := ok.newHpu (ok p).fits.validFrame (fun port up => port (Hpu.validFrame_up up))
  holdJoin {_ p} t ok clearing alive := ok.newHpu
    ⟨(ok p).down, (ok p).linked, (ok p).up, (ok p).dead, (ok p).alive, fun _ => ⟨clearing, alive⟩, (ok p).record⟩ id
  goUp {s p} ok port alive := by
    have other : (s.hpu p).port ≠ .clearing := by obtain port | port := port <;> simp [port]
    exact .goUp (fun q _ => ok q) alive ((ok p).alive alive) ((ok p).heldJoin_none other) ((ok p).record_none other)
  rejoin ok _ held := ok.rejoin held
  leave ok active held := ok.leave active held
  lostLink {_ p} ok other := ok.newHpu ((ok p).fits.lostLink other) (fun _ => other)
  clear reason ok up := ok.clear reason up
  clearLost reason ok _ := ok.clearLost reason
  teardown ok record := ok.gain rfl record (fun _ _ => .same rfl rfl rfl rfl rfl rfl)
  raise p e ok := ok.raise p e
  fetch p n ok := ok.modEvents (.inr ⟨fun none => by simp [none], rfl⟩)
  attention on ok up := ok.modEvents (.inl up)
  addWatch {s p} c f v ok up _ := ok.newWatches (fun w hw => by
    obtain rfl | hw := List.mem_cons.1 ((insertWatch_perm _ _).subset hw)
    · exact .inr up
    · exact .inl ⟨w, hw, rfl⟩)
  removeWatch _ ok := ok.newWatches (fun w hw => .inl ⟨w, List.mem_of_mem_filter hw, rfl⟩)
  setLast _ _ ok := ok.newWatches (fun w hw => by
    obtain ⟨x, hx, rfl⟩ := List.mem_map.1 hw
    exact .inl ⟨x, hx, by split <;> rfl⟩)
  clearWatches ok := ok.newWatches (fun _ hw => absurd hw List.not_mem_nil)
  unparkAll ok := ok.newPark (fun _ he => absurd he List.not_mem_nil)
  unpark _ _ ok := ok.newPark (fun e he => .inl ⟨e, List.mem_of_mem_filter he, rfl⟩)
  renew _ _ _ _ ok := ok.newPark (fun e he => by
    obtain ⟨x, hx, rfl⟩ := List.mem_map.1 he
    exact .inl ⟨x, hx, by split <;> rfl⟩)
  parkNow ok up _ _ := ok.newPark (fun e he => by
    obtain he | he := List.mem_append.1 he
    · exact .inl ⟨e, he, rfl⟩
    · rw [List.mem_singleton.1 he]
      exact .inr up)
  putCell {s c r} ok _ _ := by
    refine ok.gain ?_ (State.putCell_record c r s) (fun p _ => .same ?_ ?_ ?_ ?_ ?_ ?_) <;> rw [State.putCell_frame]
  loseCells mask ok := ok.gain rfl (fun q => by simp [State.loseCells]) (fun _ _ => .same rfl rfl rfl rfl rfl rfl)
  enqueue ok _ _ := by
    rw [State.enqueue_frame]
    exact ok.same rfl rfl rfl rfl rfl rfl rfl rfl
  pickBank b ok := by
    rw [State.pickBank_frame]
    exact ok.same rfl rfl rfl rfl rfl rfl rfl rfl
  afterAccess _ ok := ok.same rfl rfl rfl rfl rfl rfl rfl rfl
  closeEnded ok _ := ok.same rfl rfl rfl rfl rfl rfl rfl rfl
  openEnded _ ok := ok.same rfl rfl rfl rfl rfl rfl rfl rfl
  interval _ ok := ok.same rfl rfl rfl rfl rfl rfl rfl rfl
  overrun ok := ok.same rfl rfl rfl rfl rfl rfl rfl rfl
  owe ok _ _ := ok.same rfl rfl rfl rfl rfl rfl rfl rfl
  holdBanks ok := ok.same rfl rfl rfl rfl rfl rfl rfl rfl
  beginRefresh ok _ _ := ok.same rfl rfl rfl rfl rfl rfl rfl rfl
  refreshOver ok _ := ok.same rfl rfl rfl rfl rfl rfl rfl rfl
  refreshAgain ok _ _ := ok.same rfl rfl rfl rfl rfl rfl rfl rfl
  refreshLift ok _ _ := ok.same rfl rfl rfl rfl rfl rfl rfl rfl
  enterFree ok _ _ := ok.same rfl rfl rfl rfl rfl rfl rfl rfl
  enterHeld ok _ _ := ok.same rfl rfl rfl rfl rfl rfl rfl rfl
  beginPlacing _ ok _ _ := ok.same rfl rfl rfl rfl rfl rfl rfl rfl
  setRetained ok _ _ := ok.gain rfl (fun _ => rfl) (fun p _ => ⟨id, id, id, id, fun _ => Four.get_all _ _, id, id, id, id⟩)
  startExit ok _ := ok.same rfl rfl rfl rfl rfl rfl rfl rfl
  wakeBanks ok _ := ok.same rfl rfl rfl rfl rfl rfl rfl rfl
  votes ok fits := ok.gain rfl (fun _ => rfl) (fun p absent => ⟨id, id, id, id, Four.not_gained absent (fits.votes p),
    held_not_gained absent fits.wakes, id, id, id⟩)
  config ok fits := ok.config fits
  table ok _ := ok.same rfl rfl rfl rfl rfl rfl rfl rfl

/-- Settles O58, by the moves a step is made of. -/
theorem everyStepKeepsThePorts : Obligations.EveryStepKeepsThePorts := by
  unfold Obligations.EveryStepKeepsThePorts
  exact fun _ _ ok run => portsOk_moves.step ok run

end Sys2Proof.Machine

namespace Sys2Proof.Machine

/-! ### The queue of commands, time and reset -/

/-- Settles O1: it is how a step reads its queue. -/
theorem stepTakesTheFrontCommand : Obligations.StepTakesTheFrontCommand := by
  unfold Obligations.StepTakesTheFrontCommand
  intro c rest s
  rfl

/-- RESETn gates every command other than DEVICE_RESET and RESET_RELEASE (R174). -/
theorem exec_gated {c : Instr} (reset : c ≠ .deviceReset) (release : c ≠ .resetRelease) (s : State) :
    ∃ t, exec c s = .next (if s.resetHigh then t else s) := by
  cases c with
  | deviceReset => exact absurd rfl reset
  | resetRelease => exact absurd rfl release
  | _ => exact ⟨_, rfl⟩

/-- Nothing stops the part: every command answers a next state. -/
theorem exec_next (c : Instr) (s : State) : ∃ t, exec c s = .next t := by
  by_cases reset : c = .deviceReset
  · subst reset
    exact ⟨_, rfl⟩
  · by_cases release : c = .resetRelease
    · subst release
      exact ⟨_, rfl⟩
    · obtain ⟨t, gated⟩ := exec_gated reset release s
      exact ⟨_, gated⟩

/-- While RESETn is low nothing happens (R174). -/
theorem exec_low {c : Instr} {s : State} (low : s.resetHigh = false) (reset : c ≠ .deviceReset) (release : c ≠ .resetRelease) :
    exec c s = .next s := by
  obtain ⟨t, gated⟩ := exec_gated reset release s
  rw [gated, low]
  rfl

/-- No move touches the queue of waiting commands. -/
theorem pending_moves (q : List Instr) : Moves (fun _ => True) (fun _ => True) (fun s => s.pending = q) where
  currentKnown _ _ := ⟨trivial, fun _ _ => trivial⟩
  parkedKnown _ _ := trivial
  stampedKnown _ _ := trivial
  flightKnown _ _ := trivial
  partKnown _ := trivial
  fitsKnown _ := trivial
  inRangeKnown _ _ _ := trivial
  nextKnown _ _ := trivial
  choices _ same := same
  reset same := same
  release same := same
  hpu same _ := same
  validFrame _ same := same
  holdJoin _ same _ _ := same
  goUp same _ _ := same
  rejoin same _ _ := same
  leave same _ _ := same
  lostLink same _ := same
  clear reason same _ := by rw [State.clearPort_frame]; exact same
  clearLost reason same _ := by rw [State.clearPort_frame]; exact same
  teardown same _ := same
  raise p e same := by rw [State.raise_frame]; exact same
  fetch _ _ same := same
  attention _ same _ := same
  addWatch _ _ _ same _ _ := same
  removeWatch _ same := same
  setLast _ _ same := same
  clearWatches same := same
  unparkAll same := same
  unpark _ _ same := same
  renew _ _ _ _ same := same
  parkNow same _ _ _ := same
  putCell same _ _ := by rw [State.putCell_frame]; exact same
  loseCells _ same := same
  enqueue same _ _ := by rw [State.enqueue_frame]; exact same
  pickBank b same := by rw [State.pickBank_frame]; exact same
  afterAccess _ same := same
  closeEnded same _ := same
  openEnded _ same := same
  interval _ same := same
  overrun same := same
  owe same _ _ := same
  holdBanks same := same
  beginRefresh same _ _ := same
  refreshOver same _ := same
  refreshAgain same _ _ := same
  refreshLift same _ _ := same
  enterFree same _ _ := same
  enterHeld same _ _ := same
  beginPlacing _ same _ _ := same
  setRetained same _ _ := same
  startExit same _ := same
  wakeBanks same _ := same
  votes same _ := same
  config same _ := same
  table same _ := same

/-- Settles O2, by the moves a command is made of. -/
theorem everyCommandCompletesAndKeepsTheQueue : Obligations.EveryCommandCompletesAndKeepsTheQueue := by
  unfold Obligations.EveryCommandCompletesAndKeepsTheQueue
  intro c s
  obtain ⟨t, run⟩ := exec_next c s
  exact ⟨t, run, (pending_moves s.pending).exec run rfl⟩

/-! #### The passing of time (R46, R102, R148, R149) -/

theorem expiryDue_iff {now : Nat} {e : ParkEntry} :
    expiryDue now e = true ↔
      ∃ d, e.deadline = some d ∧ d + (Config.expiryDelay e.port e.tag d).val ≤ now := by
  unfold expiryDue
  cases e.deadline with
  | none => simp
  | some d =>
    simp only [Bool.and_eq_true, decide_eq_true_eq, Option.some.injEq, exists_eq_left']
    exact ⟨And.right, fun passed => ⟨le_trans (Nat.le_add_right _ _) passed, passed⟩⟩

theorem mem_inFreeOrder {n : Nat} {due : List Instr} {c : Instr} : c ∈ inFreeOrder n due ↔ c ∈ due := by
  simp only [inFreeOrder, List.mem_map, mem_inKeyOrder]
  constructor
  · rintro ⟨x, hx, rfl⟩
    exact List.fst_mem_of_mem_zipIdx hx
  · intro hc
    obtain ⟨i, hi, rfl⟩ := List.mem_iff_getElem.1 hc
    exact ⟨(due[i], i), by simp [List.mem_zipIdx_iff_getElem?, hi], rfl⟩

theorem State.mem_timedOut {s : State} {c : Instr} :
    c ∈ s.timedOut ↔
      (∃ p, c = .linkLoss p ∧ reached (s.hpu p).recvTimer Config.linkLossMicros = true) ∨
      (∃ p, c = .sendIdle p ∧ reached (s.hpu p).sendTimer Config.idleMicros = true) ∨
      (c = .refreshIntervalExpiry ∧ s.refresh.timer = some 0) ∨
      (∃ e ∈ s.park, c = .parkExpiry e.port e.tag ∧ expiryDue s.now e = true) := by
  simp only [State.timedOut, List.mem_append, List.mem_map, List.mem_filter, mem_allFour, true_and, or_assoc]
  refine or_congr ?_ (or_congr ?_ (or_congr ?_ ?_))
  · exact ⟨fun ⟨p, due, same⟩ => ⟨p, same.symm, due⟩, fun ⟨p, same, due⟩ => ⟨p, due, same.symm⟩⟩
  · exact ⟨fun ⟨p, due, same⟩ => ⟨p, same.symm, due⟩, fun ⟨p, same, due⟩ => ⟨p, due, same.symm⟩⟩
  · split
    · rename_i due
      simp [due]
    · rename_i other
      simp [other]
  · exact ⟨fun ⟨e, ⟨he, due⟩, same⟩ => ⟨e, he, same.symm, due⟩, fun ⟨e, he, same, due⟩ => ⟨e, ⟨he, due⟩, same.symm⟩⟩

/-- The happenings due after 1 µs more, from the timers before it. -/
theorem State.mem_timedOut_advance {s : State} {c : Instr} :
    c ∈ s.advance.timedOut ↔
      (∃ p u, c = .linkLoss p ∧ (s.hpu p).recvTimer = some u ∧ 400 ≤ u + 1) ∨
      (∃ p u, c = .sendIdle p ∧ (s.hpu p).sendTimer = some u ∧ 100 ≤ u + 1) ∨
      (∃ u, c = .refreshIntervalExpiry ∧ s.refresh.timer = some u ∧ u ≤ 1) ∨
      (∃ e ∈ s.park, ∃ d, c = .parkExpiry e.port e.tag ∧ e.deadline = some d ∧
        d + (Config.expiryDelay e.port e.tag d).val ≤ s.now + 1) := by
  have hpu (p : Port) : s.advance.hpu p = (s.hpu p).tick := Four.get_map _ _ _
  have counted (timer : Option Nat) (limit : Nat) :
      reached (timer.map (· + 1)) limit = true ↔ ∃ u, timer = some u ∧ limit ≤ u + 1 := by
    cases timer <;> simp [reached]
  have elapsed : s.advance.refresh.timer = some 0 ↔ ∃ u, s.refresh.timer = some u ∧ u ≤ 1 := by
    change s.refresh.timer.map (· - 1) = some 0 ↔ _
    cases s.refresh.timer with
    | none => simp
    | some u => simp; omega
  rw [State.mem_timedOut]
  refine or_congr ?_ (or_congr ?_ (or_congr ?_ ?_))
  · exact exists_congr (fun p => by
      rw [hpu, Hpu.tick, counted]
      exact ⟨fun ⟨same, u, due⟩ => ⟨u, same, due⟩, fun ⟨u, same, due⟩ => ⟨same, u, due⟩⟩)
  · exact exists_congr (fun p => by
      rw [hpu, Hpu.tick, counted]
      exact ⟨fun ⟨same, u, due⟩ => ⟨u, same, due⟩, fun ⟨u, same, due⟩ => ⟨same, u, due⟩⟩)
  · rw [elapsed]
    exact ⟨fun ⟨same, u, due⟩ => ⟨u, same, due⟩, fun ⟨u, same, due⟩ => ⟨same, u, due⟩⟩
  · refine exists_congr (fun e => and_congr_right (fun _ => ?_))
    rw [expiryDue_iff]
    exact ⟨fun ⟨same, d, due⟩ => ⟨d, same, due⟩, fun ⟨d, same, due⟩ => ⟨same, d, due⟩⟩

/-- Settles O3: an idle step is `State.tick`, and the commands that join the queue are those that are due. -/
theorem idleStepPassesOneMicrosecond : Obligations.IdleStepPassesOneMicrosecond := by
  unfold Obligations.IdleStepPassesOneMicrosecond
  intro s idle high
  have ticks : step s = .next s.tick := by
    unfold step
    rw [idle]
  rw [ticks, State.tick, if_pos high]
  by_cases few : s.advance.timedOut.length ≤ 1
  · refine ⟨s.choices, s.advance.timedOut, ?_, fun c => State.mem_timedOut_advance⟩
    simp only [few, if_true]
    rfl
  · refine ⟨s.choices + 1, inFreeOrder s.choices s.advance.timedOut, ?_,
      fun c => mem_inFreeOrder.trans State.mem_timedOut_advance⟩
    simp only [few, if_false]
    rfl

/-! #### Device reset (R174) -/

/-- Settles O4: the reset state read field by field, the release, and `exec_low` for all else. -/
theorem deviceResetAndItsRelease : Obligations.DeviceResetAndItsRelease := by
  unfold Obligations.DeviceResetAndItsRelease
  refine ⟨fun s => ⟨s.heldInReset, rfl, ?fields⟩, ⟨fun s low => ?release, fun s t run => ?whole⟩,
    fun c s low reset release => exec_low low reset release⟩
  case fields =>
    exact ⟨reset_readCell, fun p => Four.get_all _ p, rfl, rfl, fun p => Four.get_all _ p, fun p => Four.get_all _ p,
      fun b => Four.get_all _ b, rfl, rfl, rfl, rfl, rfl, fun p => Four.get_all _ p,
      fun p => by fin_cases p <;> rfl, rfl⟩
  case release =>
    change Host.Outcome.next (if s.resetHigh then s else s.releaseReset) = _
    rw [low]
    rfl
  case whole =>
    cases run
    rfl

/-! #### The updates (R25, R26) -/

/-- Settles O32, update by update. -/
theorem updatesComputeTheNewValue : Obligations.UpdatesComputeTheNewValue := by
  unfold Obligations.UpdatesComputeTheNewValue
  intro value arg
  have small := value.isLt
  have small' := arg.isLt
  refine ⟨rfl, rfl, BitVec.toNat_add _ _, ?sub, fun i => BitVec.getLsbD_and, fun i => BitVec.getLsbD_or,
    fun i => BitVec.getLsbD_xor, ?max, ?min, fun u => ?wraps⟩
  case sub =>
    change (((value - arg).toNat : Nat) : Int) = _
    rw [BitVec.toNat_sub]
    omega
  case max =>
    change (if value.toNat < arg.toNat then arg else value).toNat = max value.toNat arg.toNat
    split <;> omega
  case min =>
    change (if arg.toNat < value.toNat then arg else value).toNat = min value.toNat arg.toNat
    split <;> omega
  case wraps => cases u <;> simp [updateWraps]

/-! #### The state after reset -/

theorem reset_openRequests : State.reset.openRequests = [] := by decide

theorem reset_tagsOk : State.reset.TagsOk where
  outstanding x hx := by
    rw [reset_openRequests] at hx
    exact absurd hx List.not_mem_nil
  once := by
    rw [reset_openRequests]
    exact List.nodup_nil
  flights := ⟨List.Perm.nil, List.nodup_nil⟩
  queued b a ha := by
    rw [reset_bank] at ha
    exact absurd ha List.not_mem_nil
  left b a ha := by
    rw [reset_bank] at ha
    exact absurd ha List.not_mem_nil
  recovering p hp := absurd hp List.not_mem_nil
  oneRecovery := List.nodup_nil

/-- Settles O60: each invariant's own lemma. -/
theorem resetMeetsEveryInvariant : Obligations.ResetMeetsEveryInvariant := by
  unfold Obligations.ResetMeetsEveryInvariant
  exact ⟨reset_cellsOk, reset_stampsOk, reset_tablesOk, reset_queuesOk, reset_banksOk, reset_portsOk, reset_tagsOk⟩

end Sys2Proof.Machine

namespace Sys2Proof.Machine

/-! ### Words packed from fields (R171 to R173)

A word that `packWord` makes from fields at bit positions in rising order, each within its width, carries each field and
nothing else. -/

/-- Fields in rising order of bit position, apart from each other, each value within its width and in the word. -/
structure FieldsApart (fields : List (Nat × Nat × Nat)) : Prop where
  apart : fields.Pairwise (fun x y => x.1 + x.2.1 ≤ y.1)
  within : ∀ x ∈ fields, x.2.2 < 2 ^ x.2.1 ∧ x.1 + x.2.1 ≤ 32

theorem testBit_packed {fields : List (Nat × Nat × Nat)} {acc n : Nat} (small : acc < 2 ^ n)
    (above : ∀ x ∈ fields, n ≤ x.1) (apart : fields.Pairwise (fun x y => x.1 + x.2.1 ≤ y.1))
    (within : ∀ x ∈ fields, x.2.2 < 2 ^ x.2.1) (i : Nat) :
    (fields.foldl (fun acc x => acc + x.2.2 * 2 ^ x.1) acc).testBit i =
      (acc.testBit i || fields.any (fun x => decide (x.1 ≤ i) && x.2.2.testBit (i - x.1))) := by
  induction fields generalizing acc n with
  | nil => simp
  | cons x rest ih =>
    obtain ⟨first, others⟩ := List.pairwise_cons.1 apart
    have low : acc < 2 ^ x.1 := lt_of_lt_of_le small (Nat.pow_le_pow_right Nat.two_pos (above x List.mem_cons_self))
    have value := within x List.mem_cons_self
    have grown : acc + x.2.2 * 2 ^ x.1 < 2 ^ (x.1 + x.2.1) := by
      rw [Nat.pow_add]
      calc acc + x.2.2 * 2 ^ x.1 < 2 ^ x.1 + x.2.2 * 2 ^ x.1 := Nat.add_lt_add_right low _
        _ = 2 ^ x.1 * (x.2.2 + 1) := by ring
        _ ≤ 2 ^ x.1 * 2 ^ x.2.1 := Nat.mul_le_mul_left _ value
    have head : (acc + x.2.2 * 2 ^ x.1).testBit i =
        (acc.testBit i || (decide (x.1 ≤ i) && x.2.2.testBit (i - x.1))) := by
      rw [Nat.add_comm, Nat.mul_comm, Nat.testBit_two_pow_mul_add _ low]
      by_cases below : i < x.1
      · simp [below]
      · have clear : acc.testBit i = false :=
          Nat.testBit_lt_two_pow (lt_of_lt_of_le low (Nat.pow_le_pow_right Nat.two_pos (not_lt.1 below)))
        simp [below, clear, not_lt.1 below]
    rw [List.foldl_cons, ih grown first others (fun y hy => within y (List.mem_cons_of_mem _ hy)), head, List.any_cons,
      Bool.or_assoc]

theorem getLsbD_packWord {fields : List (Nat × Nat × Nat)} (h : FieldsApart fields) (i : Nat) :
    (packWord (fields.map (fun x => (x.1, x.2.2)))).getLsbD i =
      (decide (i < 32) && fields.any (fun x => decide (x.1 ≤ i) && x.2.2.testBit (i - x.1))) := by
  rw [packWord, BitVec.getLsbD_ofNat, List.foldl_map,
    testBit_packed (acc := 0) (n := 0) (by decide) (fun _ _ => Nat.zero_le _) h.apart (fun x hx => (h.within x hx).1)]
  simp

theorem testBit_bitsOf (w : Word) (lo len i : Nat) :
    (bitsOf w lo len).testBit i = (decide (i < len) && w.getLsbD (lo + i)) := by
  rw [bitsOf, Nat.testBit_mod_two_pow, Nat.testBit_shiftRight]
  rfl

/-- Of two members of a list related pairwise, one stands before the other or they are one. -/
theorem mem_pairwise {α : Type} {R : α → α → Prop} {l : List α} (h : l.Pairwise R) {x y : α} (hx : x ∈ l) (hy : y ∈ l) :
    R x y ∨ R y x ∨ x = y := by
  induction l with
  | nil => cases hx
  | cons a l ih =>
    obtain ⟨head, tail⟩ := List.pairwise_cons.1 h
    obtain hx | hx := List.mem_cons.1 hx <;> obtain hy | hy := List.mem_cons.1 hy
    · exact .inr (.inr (hx.trans hy.symm))
    · exact .inl (hx ▸ head y hy)
    · exact .inr (.inl (hy ▸ head x hx))
    · exact ih tail hx hy

/-- A packed word carries its fields, and every bit outside them is 0 (R173). -/
theorem carries_packWord {fields : List (Nat × Nat × Nat)} (h : FieldsApart fields) :
    carries (packWord (fields.map (fun x => (x.1, x.2.2)))) fields := by
  constructor
  · intro x hx
    obtain ⟨value, within⟩ := h.within x hx
    have disjoint := fun y hy => mem_pairwise h.apart hx (y := y) hy
    refine Nat.eq_of_testBit_eq (fun i => ?_)
    rw [testBit_bitsOf, getLsbD_packWord h]
    by_cases inside : i < x.2.1
    · have inWord : x.1 + i < 32 := by omega
      simp only [inside, inWord, decide_true, Bool.true_and]
      rw [Bool.eq_iff_iff, List.any_eq_true]
      constructor
      · rintro ⟨y, hy, bit⟩
        simp only [Bool.and_eq_true, decide_eq_true_eq] at bit
        obtain after | before | rfl := disjoint y hy
        · omega
        · have big : y.2.2 < 2 ^ (x.1 + i - y.1) :=
            lt_of_lt_of_le (h.within y hy).1 (Nat.pow_le_pow_right Nat.two_pos (by omega))
          simp [Nat.testBit_lt_two_pow big] at bit
        · simpa using bit.2
      · exact fun bit => ⟨x, hx, by simpa using bit⟩
    · have big : x.2.2 < 2 ^ i := lt_of_lt_of_le value (Nat.pow_le_pow_right Nat.two_pos (not_lt.1 inside))
      simp [inside, Nat.testBit_lt_two_pow big]
  · intro i bit
    rw [getLsbD_packWord h, Bool.and_eq_true, List.any_eq_true] at bit
    obtain ⟨-, x, hx, bit⟩ := bit
    simp only [Bool.and_eq_true, decide_eq_true_eq] at bit
    refine ⟨x, hx, bit.1, ?_⟩
    by_contra outside
    have big : x.2.2 < 2 ^ (i - x.1) :=
      lt_of_lt_of_le (h.within x hx).1 (Nat.pow_le_pow_right Nat.two_pos (by omega))
    simp [Nat.testBit_lt_two_pow big] at bit

/-! ### Frames and their commands (R150, R171, 11.1) -/

/-- The order in which fields are packed does not matter. -/
theorem packWord_perm {l l' : List (Nat × Nat)} (h : l.Perm l') : packWord l = packWord l' :=
  congrArg (BitVec.ofNat 32) (h.foldl_eq' (fun _ _ _ _ _ => Nat.add_right_comm _ _ _) 0)

/-- The header word of a frame carries its kind, tag and length. -/
theorem header_carries (kind : Byte) (tag : Tag) (length : Byte) :
    carries (packWord [(24, kind.toNat), (16, tag.val), (0, length.toNat)])
      [(0, 8, length.toNat), (16, 3, tag.val), (24, 8, kind.toNat)] := by
  have apart : FieldsApart [(0, 8, length.toNat), (16, 3, tag.val), (24, 8, kind.toNat)] :=
    ⟨by simp, by simp [length.isLt, kind.isLt, tag.isLt]⟩
  have turned : [(24, kind.toNat), (16, tag.val), (0, length.toNat)].Perm
      ([(0, 8, length.toNat), (16, 3, tag.val), (24, 8, kind.toNat)].map (fun x => (x.1, x.2.2))) :=
    List.reverse_perm [(0, length.toNat), (16, tag.val), (24, kind.toNat)]
  rw [packWord_perm turned]
  exact carries_packWord apart

theorem readHeader_frameWords (kind : Byte) (f : Frame) : readHeader (frameWords kind f) = (kind, f) := by
  obtain ⟨fields, -⟩ := header_carries kind f.tag f.length
  have kindRead := fields (24, 8, kind.toNat) (by simp)
  have tagRead := fields (16, 3, f.tag.val) (by simp)
  have lengthRead := fields (0, 8, f.length.toNat) (by simp)
  have tail : (frameWords kind f).tail.dropLast = f.payload := by simp [frameWords]
  have head : (frameWords kind f).headD 0 = packWord [(24, kind.toNat), (16, f.tag.val), (0, f.length.toNat)] := rfl
  simp only [readHeader, head, tail, kindRead, lengthRead, BitVec.ofNat_toNat, BitVec.setWidth_eq]
  exact congrArg (Prod.mk kind) (by cases f; simp only [Frame.mk.injEq, and_true]; exact Fin.ext tagRead)

theorem frameCheckOk_frameWords (kind : Byte) (f : Frame) : frameCheckOk (frameWords kind f) = true := by
  simp only [frameCheckOk, frameWords, List.dropLast_concat, List.getLast?_concat]
  simp

theorem Kind.ofCode_code (k : Kind) : Kind.ofCode k.code = some k := by cases k <;> decide

theorem Kind.code_lt (k : Kind) : k.code.toNat < 0x16 := by cases k <;> decide

theorem Kind.code_ne_zero (k : Kind) : k.code ≠ 0 := by cases k <;> decide

theorem unknownKind_iff (c : Byte) : unknownKind c = true ↔ 0x16 ≤ c.toNat := by
  rw [unknownKind, decide_eq_true_iff]

theorem Kind.ofCode_unknown {c : Byte} (h : unknownKind c = true) : Kind.ofCode c = none := by
  rw [Kind.ofCode, List.find?_eq_none]
  intro k _ same
  have lt := Kind.code_lt k
  rw [eq_of_beq same] at lt
  exact absurd ((unknownKind_iff c).1 h) (not_le.2 lt)

/-- Every code from 01h to 15h names a kind (11.1). -/
theorem Kind.ofCode_known {c : Byte} (nonzero : c ≠ 0) (none : Kind.ofCode c = none) : unknownKind c = true := by
  rw [unknownKind_iff]
  by_contra below
  have known : ∀ n : Fin 0x16, n ≠ 0 → (Kind.ofCode (BitVec.ofNat 8 n.val)).isSome = true := by decide
  have this := known ⟨c.toNat, not_le.1 below⟩ (fun zero => nonzero (BitVec.eq_of_toNat_eq (by simpa using congrArg Fin.val zero)))
  simp [none] at this

theorem requestOf_wf (k : Kind) (p : Port) (f : Frame) : (requestOf k p f).wf = true := by cases k <;> rfl

/-- The command of words that pass the frame check. -/
theorem decodeFrame_ok {p : Port} {words : List Word} (ok : frameCheckOk words = true) :
    decodeFrame p words =
      if (readHeader words).1 = 0 then .idleFrame p (readHeader words).2
      else
        match Kind.ofCode (readHeader words).1 with
        | some k => requestOf k p (readHeader words).2
        | none => .badKind p (readHeader words).1 (readHeader words).2 :=
  if_pos ok

theorem decodeFrame_failed {p : Port} {words : List Word} (failed : frameCheckOk words = false) :
    decodeFrame p words = .frameCheck p words := by
  rw [decodeFrame, if_neg (by simp [failed])]

theorem decodeFrame_frameWords (p : Port) (code : Byte) (f : Frame) :
    decodeFrame p (frameWords code f) =
      if code = 0 then .idleFrame p f
      else
        match Kind.ofCode code with
        | some k => requestOf k p f
        | none => .badKind p code f := by
  rw [decodeFrame_ok (frameCheckOk_frameWords code f), readHeader_frameWords]

theorem decodeFrame_wf (p : Port) (words : List Word) : (decodeFrame p words).wf = true := by
  cases ok : frameCheckOk words with
  | false =>
    rw [decodeFrame_failed ok]
    simp [Instr.wf, ok]
  | true =>
    rw [decodeFrame_ok ok]
    split
    · rfl
    · rename_i nonzero
      split
      · exact requestOf_wf _ _ _
      · rename_i none
        exact Kind.ofCode_known nonzero none

/-- Settles O5: the header word carries its fields, and the codes name the kinds. -/
theorem framesAreReadAsTheirCommands : Obligations.FramesAreReadAsTheirCommands := by
  unfold Obligations.FramesAreReadAsTheirCommands
  refine ⟨fun p f => ⟨fun k => ?request, fun code unknown => ?bad, ?idle⟩,
    fun p words => ⟨decodeFrame_wf p words, decodeFrame_failed⟩⟩
  case request => rw [decodeFrame_frameWords, if_neg (Kind.code_ne_zero k), Kind.ofCode_code]
  case bad =>
    have nonzero : code ≠ 0 := by
      rintro rfl
      exact absurd unknown (by decide)
    rw [decodeFrame_frameWords, if_neg nonzero, Kind.ofCode_unknown unknown]
  case idle => rw [decodeFrame_frameWords, if_pos rfl]

/-! ### The fields of the request payloads (11.2, R172) -/

theorem Pred.ofCode_eq (n : Nat) :
    Pred.ofCode n = [Pred.always, .eq, .ne, .lt, .le, .gt, .ge, .ult, .ule, .ugt, .uge][n]? := by
  match n with
  | 0 | 1 | 2 | 3 | 4 | 5 | 6 | 7 | 8 | 9 | 10 => rfl
  | _ + 11 => rfl

theorem OwnCond.ofCode_eq (n : Nat) : OwnCond.ofCode n = [OwnCond.any, .none, .mine, .notMine][n]? := by
  match n with
  | 0 | 1 | 2 | 3 => rfl
  | _ + 4 => rfl

theorem Update.ofCode_eq (n : Nat) :
    Update.ofCode n = [Update.none, .set, .add, .sub, .and, .or, .xor, .max, .min][n]? := by
  match n with
  | 0 | 1 | 2 | 3 | 4 | 5 | 6 | 7 | 8 => rfl
  | _ + 9 => rfl

theorem StampAct.ofCode_eq (n : Nat) : StampAct.ofCode n = [StampAct.keep, .stamp, .unstamp][n]? := by
  match n with
  | 0 | 1 | 2 => rfl
  | _ + 3 => rfl

theorem Right.ofCode_eq (n : Nat) : Right.ofCode n = [Right.none, .read, .update][n]? := by
  match n with
  | 0 | 1 | 2 => rfl
  | _ + 3 => rfl

theorem LossPolicy.ofCode_eq (n : Nat) : LossPolicy.ofCode n = [LossPolicy.restore, .release, .hold][n]? := by
  match n with
  | 0 | 1 | 2 => rfl
  | _ + 3 => rfl

theorem PagePolicy.ofCode_eq (n : Nat) : PagePolicy.ofCode n = [PagePolicy.opened, .closed][n]? := by
  match n with
  | 0 | 1 => rfl
  | _ + 2 => rfl

theorem bitsOf_eq (w : Word) (lo len : Nat) : bitsOf w lo len = w.toNat / 2 ^ lo % 2 ^ len := by
  rw [bitsOf, Nat.shiftRight_eq_div_pow]

theorem bitsOf_lt (w : Word) (lo len : Nat) : bitsOf w lo len < 2 ^ len := Nat.mod_lt _ (Nat.two_pow_pos len)

/-- A one-bit field is 1 exactly when the bit is set. -/
theorem bitsOf_one (w : Word) (lo : Nat) : bitsOf w lo 1 = 1 ↔ w.getLsbD lo = true := by
  have bit := testBit_bitsOf w lo 1 0
  have two : bitsOf w lo 1 = 0 ∨ bitsOf w lo 1 = 1 := by
    have := bitsOf_lt w lo 1
    omega
  obtain zero | one := two
  · rw [zero] at bit ⊢
    simpa using bit
  · rw [one] at bit ⊢
    simpa using bit

theorem Frame.word_eq {f : Frame} {n : Nat} (one : 1 ≤ n) (within : n ≤ f.payload.length) :
    f.payload[n - 1]? = some (f.word n) := by
  rw [Frame.word, List.getD_eq_getElem?_getD, List.getElem?_eq_getElem (by omega)]
  rfl

theorem Frame.recoveryField_iff {f : Frame} {x : Word} :
    f.recoveryField = some x ↔ bitsOf (f.word 1) 16 1 = 1 ∧ x = f.word 2 := by
  rw [Frame.recoveryField, Option.ite_none_right_eq_some, Option.some.injEq, eq_comm (a := x)]

theorem Frame.operateFields_iff {f : Frame} {op : OpFields} :
    f.operateFields = some op ↔
      Pred.ofCode (bitsOf (f.word 1) 16 4) = some op.pred ∧ OwnCond.ofCode (bitsOf (f.word 1) 20 2) = some op.own ∧
      Update.ofCode (bitsOf (f.word 1) 22 4) = some op.upd ∧ StampAct.ofCode (bitsOf (f.word 1) 26 2) = some op.stamp ∧
      op.cmp = f.word 2 ∧ op.arg = f.word 3 ∧ op.patience = bitsOf (f.word 4) 0 16 := by
  unfold Frame.operateFields
  constructor
  · intro read
    split at read
    · cases read
      exact ⟨‹_›, ‹_›, ‹_›, ‹_›, rfl, rfl, rfl⟩
    · cases read
  · rintro ⟨q, o, u, a, cmp, arg, patience⟩
    simp only [q, o, u, a, ← cmp, ← arg, ← patience]

theorem Frame.watchFields_iff {f : Frame} {x : WatchFields} :
    f.watchFields = some x ↔
      (bitsOf (f.word 1) 16 4 = 11 ∧ x.trigger = .change ∨
        ∃ q, Pred.ofCode (bitsOf (f.word 1) 16 4) = some q ∧ x.trigger = .pred q (f.word 2)) ∧
      (x.mode = .repeating ↔ bitsOf (f.word 1) 20 1 = 1) ∧ (x.reportNow = true ↔ bitsOf (f.word 1) 21 1 = 1) := by
  have mode (m : WatchMode) : (if bitsOf (f.word 1) 20 1 = 1 then WatchMode.repeating else .once) = m ↔
      (m = .repeating ↔ bitsOf (f.word 1) 20 1 = 1) := by
    cases m <;> by_cases set : bitsOf (f.word 1) 20 1 = 1 <;> simp [set]
  have now (b : Bool) : (bitsOf (f.word 1) 21 1 == 1) = b ↔ (b = true ↔ bitsOf (f.word 1) 21 1 = 1) := by
    rw [← beq_iff_eq (a := bitsOf (f.word 1) 21 1), ← Bool.eq_iff_iff, eq_comm]
  unfold Frame.watchFields
  obtain ⟨trigger, m, b⟩ := x
  simp only
  split
  · rename_i change
    have none : Pred.ofCode 11 = none := rfl
    simp only [Option.some.injEq, WatchFields.mk.injEq, mode, now, none, change, reduceCtorEq, false_and, exists_false, or_false,
      true_and, eq_comm (a := Trigger.change)]
  · rename_i other
    cases read : Pred.ofCode (bitsOf (f.word 1) 16 4) with
    | none => simp [other]
    | some q =>
      simp only [Option.some.injEq, WatchFields.mk.injEq, mode, now, other, false_and, false_or, exists_eq_left',
        eq_comm (a := Trigger.pred q (f.word 2))]

theorem Frame.regionFields_iff {f : Frame} {e : RegionEntry} :
    f.regionFields = some e ↔
      (e.valid = true ↔ bitsOf (f.word 1) 8 1 = 1) ∧ LossPolicy.ofCode (bitsOf (f.word 1) 9 2) = some e.policy ∧
      (∀ p : Port, Right.ofCode (bitsOf (f.word 1) (16 + 2 * p.val) 2) = some (e.rights.get p)) ∧
      e.base = bitsOf (f.word 2) 0 16 ∧ e.length = bitsOf (f.word 3) 0 17 ∧ 1 ≤ e.length ∧ e.base + e.length ≤ 65536 ∧
      e.default = f.word 4 := by
  unfold Frame.regionFields
  simp only
  constructor
  · intro read
    split at read
    · rename_i r0 r1 r2 r3 l h0 h1 h2 h3 hl
      simp only [Option.ite_none_right_eq_some, Option.some.injEq] at read
      obtain ⟨⟨one, -, within⟩, rfl⟩ := read
      refine ⟨beq_iff_eq, hl, fun p => ?_, rfl, rfl, one, within, rfl⟩
      fin_cases p
      · exact h0
      · exact h1
      · exact h2
      · exact h3
    · cases read
  · rintro ⟨valid, policy, rights, base, length, one, within, default⟩
    obtain ⟨v, b, n, ⟨r0, r1, r2, r3⟩, l, d⟩ := e
    have h0 : Right.ofCode (bitsOf (f.word 1) 16 2) = some r0 := rights 0
    have h1 : Right.ofCode (bitsOf (f.word 1) 18 2) = some r1 := rights 1
    have h2 : Right.ofCode (bitsOf (f.word 1) 20 2) = some r2 := rights 2
    have h3 : Right.ofCode (bitsOf (f.word 1) 22 2) = some r3 := rights 3
    have set : (bitsOf (f.word 1) 8 1 == 1) = v := by
      rw [Bool.eq_iff_iff, beq_iff_eq]
      exact valid.symm
    simp only at base length default within one policy
    have small : n ≤ 65536 := le_trans (Nat.le_add_left _ _) within
    simp only [h0, h1, h2, h3, policy, ← base, ← length, ← default, set, one, small, within, and_self, if_true]

/-- The retention mask is read bit by bit. -/
theorem mask_eq_iff (w : Word) (m : BitVec 4) :
    BitVec.ofNat 4 (bitsOf w 16 4) = m ↔ ∀ b : Bank, (m.getLsbD b.val = true ↔ bitsOf w (16 + b.val) 1 = 1) := by
  have bit (i : Nat) (small : i < 4) : (BitVec.ofNat 4 (bitsOf w 16 4)).getLsbD i = w.getLsbD (16 + i) := by
    rw [BitVec.getLsbD_ofNat, testBit_bitsOf]
    simp [small]
  constructor
  · rintro rfl b
    rw [bit _ b.isLt, bitsOf_one]
  · intro bits
    refine BitVec.eq_of_getLsbD_eq (fun i small => ?_)
    rw [bit i small, Bool.eq_iff_iff, bits ⟨i, small⟩, bitsOf_one]

theorem Frame.settingsFields_iff {f : Frame} {x : Settings} :
    f.settingsFields = some x ↔
      x.interval = bitsOf (f.word 1) 0 8 ∧ 2 ≤ x.interval ∧ x.interval ≤ 12 ∧
      PagePolicy.ofCode (bitsOf (f.word 1) 8 2) = some x.page ∧
      ∀ b : Bank, (x.mask.getLsbD b.val = true ↔ bitsOf (f.word 1) (16 + b.val) 1 = 1) := by
  rw [← mask_eq_iff]
  unfold Frame.settingsFields
  simp only
  constructor
  · intro read
    split at read
    · simp only [Option.ite_none_right_eq_some, Option.some.injEq] at read
      obtain ⟨⟨two, twelve⟩, rfl⟩ := read
      exact ⟨rfl, two, twelve, ‹_›, rfl⟩
    · cases read
  · rintro ⟨interval, two, twelve, page, mask⟩
    obtain ⟨i, g, m⟩ := x
    simp only at interval two twelve page mask
    simp only [page, ← interval, two, twelve, mask, and_self, if_true]

theorem Frame.initFields_iff {f : Frame} {i : InitFields} :
    f.initFields = some i ↔
      i.base = bitsOf (f.word 1) 0 16 ∧ i.count = bitsOf (f.word 2) 0 17 ∧ 1 ≤ i.count ∧ i.base + i.count ≤ 65536 ∧
      i.value = f.word 3 ∧ i.recovery = if bitsOf (f.word 1) 16 1 = 1 then some (f.word 4) else none := by
  unfold Frame.initFields
  simp only [Option.ite_none_right_eq_some, Option.some.injEq]
  constructor
  · rintro ⟨⟨one, -, within⟩, rfl⟩
    exact ⟨rfl, rfl, one, within, rfl, rfl⟩
  · rintro ⟨base, count, one, within, value, recovery⟩
    obtain ⟨b, n, v, r⟩ := i
    simp only at base count one within value recovery
    subst base count value recovery
    exact ⟨⟨one, le_trans (Nat.le_add_left _ _) within, within⟩, rfl⟩

/-- Settles O6: one lemma for each payload, with its codes as the lists of 11.2. -/
theorem fieldsAreReadAtTheirBits : Obligations.FieldsAreReadAtTheirBits := by
  unfold Obligations.FieldsAreReadAtTheirBits
  refine ⟨bitsOf_eq, fun f => ⟨fun n one within => Frame.word_eq one within, rfl, rfl, rfl, ?generation,
    fun x => Frame.recoveryField_iff, fun op => ?operate, fun x => ?watch, fun e => ?region, fun x => ?settings,
    fun i => Frame.initFields_iff⟩⟩
  case generation =>
    rw [Frame.generationField, BitVec.toNat_ofNat]
    exact Nat.mod_eq_of_lt (bitsOf_lt _ _ _)
  case operate =>
    rw [Frame.operateFields_iff, Pred.ofCode_eq, OwnCond.ofCode_eq, Update.ofCode_eq, StampAct.ofCode_eq]
  case watch => rw [Frame.watchFields_iff, Pred.ofCode_eq]
  case region =>
    rw [Frame.regionFields_iff, LossPolicy.ofCode_eq]
    simp only [Right.ofCode_eq]
  case settings => rw [Frame.settingsFields_iff, PagePolicy.ofCode_eq]

end Sys2Proof.Machine

namespace Sys2Proof.Machine

/-! ### Frames that are no request, and frames that are discarded (R148 to R152) -/

theorem whileReleased_high {s : State} (high : s.resetHigh = true) (work : State → State) :
    whileReleased s work = .next (work s) := by
  rw [whileReleased, if_pos high]

theorem Hpu.validFrame_alive {h : Hpu} (alive : h.link = .alive) : h.validFrame = { h with recvTimer := some 0 } := by
  simp [Hpu.validFrame, alive]

theorem Hpu.validFrame_dead {h : Hpu} (dead : h.link = .dead) :
    h.validFrame =
      { h with
        link := .alive, recvTimer := some 0, sendTimer := some 0
        port := if h.port = .down then .linked else h.port } := by
  simp [Hpu.validFrame, dead]

theorem EventPort.take_room {q : EventPort} (e : Event) (room : q.queue.length < 16) :
    q.take e = { q with queue := q.queue ++ [{ seq := q.seq, event := e }], seq := q.seq + 1 } := by
  unfold EventPort.take
  exact congrArg (fun l => { q with queue := l, seq := q.seq + 1 }) (if_pos room)

theorem EventPort.take_full {q : EventPort} (e : Event) (full : 16 ≤ q.queue.length) :
    q.take e = { q with seq := q.seq + 1 } := by
  unfold EventPort.take
  exact congrArg (fun l => { q with queue := l, seq := q.seq + 1 }) (if_neg (not_lt.2 full))

theorem exec_idleFrame {p : Port} {f : Frame} {s : State} (high : s.resetHigh = true) :
    exec (.idleFrame p f) s = .next
      (if idleLengthOk f then s.receiveValid p
       else (s.receiveValid p).portFault p .frameLength (some f.tag) (some 0)) := by
  change execIdleFrame p f s = _
  rw [execIdleFrame, whileReleased_high high]

theorem exec_frameCheck {p : Port} {words : List Word} {s : State} (high : s.resetHigh = true)
    (fails : frameCheckOk words = false) :
    exec (.frameCheck p words) s = .next (s.raise p (.portFault .frameCheck none none)) := by
  change execFrameCheck p words s = _
  rw [execFrameCheck, whileReleased_high high, if_neg (by simp [fails])]
  rfl

theorem idleLengthOk_iff {f : Frame} : idleLengthOk f = true ↔ f.length = 0 ∧ f.payload = [] := by
  rw [idleLengthOk, Bool.and_eq_true, beq_iff_eq, beq_iff_eq, List.length_eq_zero_iff, ← BitVec.toNat_inj]
  rfl

theorem lengthOk_iff {k : Kind} {f : Frame} :
    lengthOk k f = true ↔ f.length.toNat = f.payload.length ∧ f.payload.length = k.payloadWords := by
  rw [lengthOk, Bool.and_eq_true, beq_iff_eq, beq_iff_eq]

/-- Settles O7: what a valid frame does to the link, and what an event queue takes. -/
theorem idleAndDamagedFrames : Obligations.IdleAndDamagedFrames := by
  unfold Obligations.IdleAndDamagedFrames
  constructor
  · intro p f s high length payload
    have valid : exec (.idleFrame p f) s = .next { s with hpus := s.hpus.set p (s.hpu p).validFrame } := by
      rw [exec_idleFrame high, if_pos (idleLengthOk_iff.2 ⟨length, payload⟩)]
      rfl
    exact ⟨fun alive => by rw [valid, Hpu.validFrame_alive alive], fun dead => by rw [valid, Hpu.validFrame_dead dead]⟩
  · intro p words s high fails
    rw [exec_frameCheck high fails]
    refine ⟨fun up room => ?_, fun up full => ?_, fun absent => by rw [State.raise_absent _ absent]⟩
    · rw [State.raise_up _ up, EventPort.take_room _ room]
    · rw [State.raise_up _ up, EventPort.take_full _ full]

/-- A request frame of a wrong length is discarded (R150 step 2). -/
theorem exec_wrongLength {k : Kind} {p : Port} {f : Frame} {s : State} (high : s.resetHigh = true)
    (wrong : lengthOk k f = false) :
    exec (requestOf k p f) s = .next
      ((s.receiveValid p).raise p (.portFault .frameLength (some f.tag) (some k.code))) := by
  rw [exec_requestOf_released high, State.receiveRequest, if_neg (by simp [wrong])]
  rfl

/-- A request whose tag is OUTSTANDING is discarded (R152). -/
theorem exec_tagInUse {k : Kind} {p : Port} {f : Frame} {s : State} (high : s.resetHigh = true)
    (length : lengthOk k f = true) (inUse : s.tagState p f.tag = .outstanding) :
    exec (requestOf k p f) s = .next
      (State.raise p (.portFault .tagInUse (some f.tag) (some k.code))
        { s with hpus := s.hpus.set p { (s.hpu p).validFrame with admission := none } }) := by
  rw [exec_requestOf_released high, State.receiveRequest, if_pos length, State.admit_inUse _ _ _ inUse]

theorem exec_badKind {p : Port} {code : Byte} {f : Frame} {s : State} (high : s.resetHigh = true)
    (unknown : unknownKind code = true) : exec (.badKind p code f) s = .next (s.receiveUnknown p code f) := by
  change execBadKind p code f s = _
  rw [execBadKind, whileReleased_high high, if_pos unknown]

theorem State.receiveUnknown_wrongLength {p : Port} {code : Byte} {f : Frame} {s : State}
    (wrong : f.length.toNat ≠ f.payload.length) :
    s.receiveUnknown p code f =
      (s.receiveValid p).raise p (.portFault .frameLength (some f.tag) (some code)) := by
  rw [State.receiveUnknown, if_neg (by simpa [unknownLengthOk] using wrong)]
  rfl

theorem State.receiveUnknown_admits {p : Port} {code : Byte} {f : Frame} {s : State}
    (length : f.length.toNat = f.payload.length) :
    s.receiveUnknown p code f =
      ((s.receiveValid p).stage p code f).admitStaged p false (some .badKind) badKindResponse id := by
  rw [State.receiveUnknown, if_pos (by simpa [unknownLengthOk] using length)]

/-- Settles O8: each frame's reception, case by case. -/
theorem faultyFramesAreDiscardedOrRefused : Obligations.FaultyFramesAreDiscardedOrRefused := by
  unfold Obligations.FaultyFramesAreDiscardedOrRefused
  refine ⟨fun p f s high => ⟨fun k wrong => ?_, fun code unknown wrong => ?_, fun wrong => ?_⟩,
    fun p f s high inUse => ⟨fun k length => exec_tagInUse high length inUse, fun code unknown length => ?_⟩,
    fun p code f s high unknown length free => ?_⟩
  · refine exec_wrongLength high (Bool.eq_false_iff.2 (fun ok => ?_))
    obtain ⟨received, ofKind⟩ := lengthOk_iff.1 ok
    exact wrong.elim (· received) (· ofKind)
  · rw [exec_badKind high unknown, State.receiveUnknown_wrongLength wrong]
    rfl
  · rw [exec_idleFrame high, if_neg (fun ok => ?_)]
    · rfl
    · obtain ⟨length, payload⟩ := idleLengthOk_iff.1 ok
      exact wrong.elim (· length) (· payload)
  · rw [exec_badKind high unknown, State.receiveUnknown_admits length, State.admit_inUse _ _ _ inUse]
  · rw [exec_badKind high unknown, State.receiveUnknown_admits length, State.admit_free _ _ _ free]
    rfl

/-! ### The checks of admission (R107, R127, R133, R151 to R153, R172) -/

theorem portCheck_unjoined {k : Kind} {st : PortState} (unjoined : st = .linked ∨ st = .clearing) :
    portCheck k st = if k = .join ∨ k = .status then none else some .notJoined := by
  obtain rfl | rfl := unjoined <;> rfl

theorem powerCheck_asleep {k : Kind} {st : PowerState} (asleep : st ≠ .active)
    (other : ¬(k = .wake ∨ k = .status ∨ k = .fetchEvents)) : powerCheck k st = some .asleep := by
  cases st with
  | active => exact absurd rfl asleep
  | entering | retained | waking => exact if_neg other

/-- An accepted request that the configuration check refuses. -/
theorem exec_configRefused {k : Kind} {p : Port} {f : Frame} {s : State} {st : Status} (h : Accepted k p f s)
    (refused : configCheck k s.config.state = some st) :
    exec (requestOf k p f) s = .next (s.answered k p f (.refused st)) :=
  exec_refused h.toReady (by rw [h.refusal, refused]; rfl)

/-- An accepted request that the rights check refuses. -/
theorem exec_rightsRefused {k : Kind} {p : Port} {f : Frame} {s : State} {st : Status} (h : Accepted k p f s)
    (config : configCheck k s.config.state = none) (refused : rightsCheck k p f s.table = some st) :
    exec (requestOf k p f) s = .next (s.answered k p f (.refused st)) :=
  exec_refused h.toReady (by rw [h.refusal, config, refused]; rfl)

/-- An accepted request that the field check refuses. -/
theorem exec_badField {k : Kind} {p : Port} {f : Frame} {s : State} (h : Accepted k p f s)
    (config : configCheck k s.config.state = none) (rights : rightsCheck k p f s.table = none) (bad : fieldsOk k f = false) :
    exec (requestOf k p f) s = .next (s.answered k p f (.refused .badField)) :=
  exec_refused h.toReady (by rw [h.refusal, config, rights, fieldCheck, bad]; rfl)

/-- An accepted request that every check passes is acted on. -/
theorem exec_accepted {k : Kind} {p : Port} {f : Frame} {s : State} (h : Accepted k p f s)
    (config : configCheck k s.config.state = none) (rights : rightsCheck k p f s.table = none) (fields : fieldsOk k f = true) :
    exec (requestOf k p f) s = .next (serveOf k p f (s.admitted (keepsVote k) p f)) :=
  exec_served h.toReady (by rw [h.refusal, config, rights, fieldCheck, fields]; rfl)

theorem mem_cellKinds {k : Kind} (h : k ∈ [Kind.operate, .groupRead, .setRecovery, .watch]) :
    k = .operate ∨ k = .groupRead ∨ k = .setRecovery ∨ k = .watch := by simpa using h

/-- Settles O9: the port, power and configuration checks. -/
theorem portPowerAndConfigurationStatesRefuse : Obligations.PortPowerAndConfigurationStatesRefuse := by
  unfold Obligations.PortPowerAndConfigurationStatesRefuse
  refine ⟨fun k p f s ready unjoined => ⟨fun notJoin notStatus => ?_, ?_, ?_⟩,
    fun k p f s ready up asleep notWake notStatus notFetch => ?_, fun k p f s h => ⟨fun kind state => ?_, ?_, fun kind state => ?_⟩⟩
  · refine exec_refused ready ?_
    rw [State.refusal_receiveValid, portCheck_unjoined unjoined, if_neg (by simp [notJoin, notStatus])]
    rfl
  · rintro rfl asleep
    refine exec_refused (k := .join) ready ?_
    rw [State.refusal_receiveValid, portCheck_unjoined unjoined, powerCheck_asleep asleep (by simp)]
    rfl
  · rintro rfl
    have notDown : (s.hpu p).validFrame.port ≠ .down := by obtain linked | clearing := unjoined <;> simp [*]
    exact ⟨_, exec_status_answered ready notDown⟩
  · refine exec_refused ready ?_
    rw [State.refusal_receiveValid, Hpu.validFrame_up up, powerCheck_asleep asleep (by simp [notWake, notStatus, notFetch])]
    rfl
  · refine exec_configRefused h ?_
    simp only [List.mem_cons, List.not_mem_nil, or_false] at kind
    obtain rfl | rfl | rfl | rfl | rfl | rfl := kind <;> exact if_neg state
  · rintro rfl state
    refine exec_configRefused h (if_neg ?_)
    obtain setup | committing := state <;> simp [*]
  · refine exec_configRefused h ?_
    simp only [List.mem_cons, List.not_mem_nil, or_false] at kind
    obtain rfl | rfl | rfl | rfl := kind <;> exact if_neg state

/-- What a cell request of a kind needs of its port's right (R18, R127). -/
def rightsFor (k : Kind) (f : Frame) : Right → Bool :=
  match k with
  | .operate => if f.operateReadsOnly then Right.permitsRead else Right.permitsUpdate
  | .setRecovery => Right.permitsUpdate
  | _ => Right.permitsRead

theorem rightsCheck_cell {k : Kind} (h : k ∈ [Kind.operate, .groupRead, .setRecovery, .watch]) (p : Port) (f : Frame)
    (t : RegionTable) : rightsCheck k p f t = accessCheck t p f.cell (rightsFor k f) := by
  obtain rfl | rfl | rfl | rfl := mem_cellKinds h <;> rfl

theorem configCheck_cell {k : Kind} (h : k ∈ [Kind.operate, .groupRead, .setRecovery, .watch]) {st : CfgState}
    (run : st = .run) : configCheck k st = none := by
  obtain rfl | rfl | rfl | rfl := mem_cellKinds h <;> exact if_pos run

theorem Frame.operateReadsOnly_iff {f : Frame} :
    f.operateReadsOnly = true ↔ bitsOf (f.word 1) 22 4 = 0 ∧ bitsOf (f.word 1) 26 2 = 0 := by
  rw [Frame.operateReadsOnly, Bool.and_eq_true, beq_iff_eq, beq_iff_eq]

theorem accessCheck_of_region {t : RegionTable} {p : Port} {c : CellIx} {e : RegionEntry} (region : t.regionOf c = some e)
    (permits : Right → Bool) : accessCheck t p c permits = if permits (e.rights.get p) then none else some .denied := by
  rw [accessCheck, region]

/-- No cell request is permitted with right NONE. -/
theorem rightsFor_none (k : Kind) (f : Frame) : rightsFor k f .none = false := by
  unfold rightsFor
  split
  · split <;> rfl
  · rfl
  · rfl

/-- Settles O10: the region of a cell is the first entry that covers it. -/
theorem rightsAreChecked : Obligations.RightsAreChecked := by
  unfold Obligations.RightsAreChecked
  intro k p f s h run kind
  refine ⟨fun uncovered => ?_, fun before e after entries first covers lacks => ?_⟩
  · have region : s.table.regionOf f.cell = none := List.find?_eq_none.2 (fun e he => by simp [uncovered e he])
    exact exec_rightsRefused h (configCheck_cell kind run) (by rw [rightsCheck_cell kind, accessCheck, region])
  · have region : s.table.regionOf f.cell = some e := by
      rw [RegionTable.regionOf, entries, List.find?_append, List.find?_eq_none.2 (fun x hx => by simp [first x hx]),
        Option.none_or]
      exact List.find?_cons_of_pos covers
    refine exec_rightsRefused h (configCheck_cell kind run) ?_
    rw [rightsCheck_cell kind, accessCheck_of_region region, if_neg]
    obtain none | ⟨read, rfl | ⟨rfl, changes⟩⟩ := lacks
    · simp [none, rightsFor_none]
    · simp [read, rightsFor, Right.permitsUpdate]
    · rw [← Frame.operateReadsOnly_iff] at changes
      simp [read, rightsFor, changes, Right.permitsUpdate]

theorem regionFields_refused {f : Frame}
    (bad : bitsOf (f.word 1) 9 2 = 3 ∨ bitsOf (f.word 1) 16 2 = 3 ∨ bitsOf (f.word 1) 18 2 = 3 ∨
      bitsOf (f.word 1) 20 2 = 3 ∨ bitsOf (f.word 1) 22 2 = 3 ∨ bitsOf (f.word 3) 0 17 = 0 ∨
      65536 < bitsOf (f.word 3) 0 17 ∨ 65536 < bitsOf (f.word 2) 0 16 + bitsOf (f.word 3) 0 17) :
    f.regionFields.isSome = false := by
  rw [Option.isSome_eq_false_iff, Option.isNone_iff_eq_none, Option.eq_none_iff_forall_ne_some]
  intro e read
  obtain ⟨-, policy, rights, base, length, one, within, -⟩ := Frame.regionFields_iff.1 read
  rw [base, length] at within
  rw [length] at one
  have undefined : Right.ofCode 3 = none := rfl
  obtain bits | bits | bits | bits | bits | bits | bits | bits := bad
  · rw [bits] at policy
    cases policy
  · exact absurd (rights 0) (by rw [show 16 + 2 * (0 : Port).val = 16 from rfl, bits, undefined]; simp)
  · exact absurd (rights 1) (by rw [show 16 + 2 * (1 : Port).val = 18 from rfl, bits, undefined]; simp)
  · exact absurd (rights 2) (by rw [show 16 + 2 * (2 : Port).val = 20 from rfl, bits, undefined]; simp)
  · exact absurd (rights 3) (by rw [show 16 + 2 * (3 : Port).val = 22 from rfl, bits, undefined]; simp)
  · omega
  · exact absurd (le_trans (Nat.le_add_left _ _) within) (not_le.2 bits)
  · exact absurd within (not_le.2 bits)

theorem settingsFields_refused {f : Frame}
    (bad : bitsOf (f.word 1) 0 8 < 2 ∨ 12 < bitsOf (f.word 1) 0 8 ∨ 2 ≤ bitsOf (f.word 1) 8 2) :
    f.settingsFields.isSome = false := by
  rw [Option.isSome_eq_false_iff, Option.isNone_iff_eq_none, Option.eq_none_iff_forall_ne_some]
  intro x read
  obtain ⟨interval, two, twelve, page, -⟩ := Frame.settingsFields_iff.1 read
  obtain low | high | code := bad
  · omega
  · omega
  · rw [PagePolicy.ofCode_eq, List.getElem?_eq_none code] at page
    cases page

theorem initFields_refused {f : Frame}
    (bad : bitsOf (f.word 2) 0 17 = 0 ∨ 65536 < bitsOf (f.word 2) 0 17 ∨
      65536 < bitsOf (f.word 1) 0 16 + bitsOf (f.word 2) 0 17) : f.initFields.isSome = false := by
  rw [Option.isSome_eq_false_iff, Option.isNone_iff_eq_none, Option.eq_none_iff_forall_ne_some]
  intro i read
  obtain ⟨base, count, one, within, -⟩ := Frame.initFields_iff.1 read
  rw [base, count] at within
  rw [count] at one
  obtain zero | large | outside := bad
  · omega
  · exact absurd (le_trans (Nat.le_add_left _ _) within) (not_le.2 large)
  · exact absurd within (not_le.2 outside)

theorem operateFields_refused {f : Frame}
    (bad : 11 ≤ bitsOf (f.word 1) 16 4 ∨ 9 ≤ bitsOf (f.word 1) 22 4 ∨ bitsOf (f.word 1) 26 2 = 3) :
    f.operateFields.isSome = false := by
  rw [Option.isSome_eq_false_iff, Option.isNone_iff_eq_none, Option.eq_none_iff_forall_ne_some]
  intro op read
  obtain ⟨pred, -, upd, stamp, -⟩ := Frame.operateFields_iff.1 read
  obtain code | code | code := bad
  · rw [Pred.ofCode_eq, List.getElem?_eq_none code] at pred
    cases pred
  · rw [Update.ofCode_eq, List.getElem?_eq_none code] at upd
    cases upd
  · rw [code] at stamp
    cases stamp

theorem watchFields_refused {f : Frame} (bad : 12 ≤ bitsOf (f.word 1) 16 4) : f.watchFields.isSome = false := by
  rw [Option.isSome_eq_false_iff, Option.isNone_iff_eq_none, Option.eq_none_iff_forall_ne_some]
  intro x read
  obtain ⟨⟨code, -⟩ | ⟨q, code, -⟩, -⟩ := Frame.watchFields_iff.1 read
  · omega
  · rw [Pred.ofCode_eq, List.getElem?_eq_none (le_trans (by decide) bad)] at code
    cases code

/-- Settles O11: the field check of each kind, by what its payload's fields can be. -/
theorem undefinedFieldValuesAreRefused : Obligations.UndefinedFieldValuesAreRefused := by
  unfold Obligations.UndefinedFieldValuesAreRefused
  constructor
  · rintro k p f s h (⟨rfl, bad⟩ | ⟨rfl, bad⟩ | ⟨setup, ⟨rfl, bad⟩ | ⟨rfl, bad⟩ | ⟨rfl, bad⟩⟩)
    · exact exec_badField h rfl rfl (decide_eq_false (not_lt.2 bad))
    · exact exec_badField h rfl rfl (decide_eq_false (not_le.2 bad))
    · refine exec_badField h (if_pos setup) rfl ?_
      obtain number | bad := bad
      · rw [fieldsOk, show decide (f.lowByte < regionCount) = false from decide_eq_false (not_lt.2 number)]
        rfl
      · rw [fieldsOk, regionFields_refused bad, Bool.and_false]
    · exact exec_badField h (if_pos setup) rfl (settingsFields_refused bad)
    · exact exec_badField h (if_pos setup) rfl (initFields_refused bad)
  · rintro k p f s e h run region (⟨rfl, right, bad⟩ | ⟨rfl, right, update, stamp, bad⟩ | ⟨rfl, right, bad⟩)
    · have permitted : rightsFor .operate f .update = true := by
        unfold rightsFor
        split <;> rfl
      refine exec_badField h (if_pos run) ?_ (operateFields_refused bad)
      rw [rightsCheck_cell (by simp), accessCheck_of_region region, right, if_pos permitted]
    · have permitted : rightsFor .operate f (e.rights.get p) = true := by
        rw [rightsFor, if_pos (Frame.operateReadsOnly_iff.2 ⟨update, stamp⟩)]
        cases hr : e.rights.get p with
        | none => exact absurd hr right
        | read | update => rfl
      refine exec_badField h (if_pos run) ?_ (operateFields_refused (.inl bad))
      rw [rightsCheck_cell (by simp), accessCheck_of_region region, if_pos permitted]
    · have permitted : rightsFor .watch f (e.rights.get p) = true := by
        cases hr : e.rights.get p with
        | none => exact absurd hr right
        | read | update => rfl
      refine exec_badField h (if_pos run) ?_ (watchFields_refused bad)
      rw [rightsCheck_cell (by simp), accessCheck_of_region region, if_pos permitted]

/-! ### An access joins its bank queue (R85, R87, R89) -/

theorem splitHit_keeps_last {row : Nat} {l : List Access} {a x : Access} {rest : List Access}
    (split : splitHit row (l ++ [a]) = some (x, rest)) : a ∈ x :: rest := by
  induction l generalizing x rest with
  | nil =>
    simp only [List.nil_append, splitHit] at split
    split at split
    · cases split
      exact List.mem_cons_self
    · cases split
  | cons y l ih =>
    simp only [List.cons_append, splitHit] at split
    split at split
    · cases split
      simp
    · obtain ⟨⟨z, others⟩, found, same⟩ := Option.map_eq_some_iff.1 split
      cases same
      obtain rfl | among := List.mem_cons.1 (ih found)
      · exact List.mem_cons_self
      · exact List.mem_cons_of_mem _ (List.mem_cons_of_mem _ among)

theorem chooseAccess_keeps_last {st : BankState} {l : List Access} {a x : Access} {rest : List Access}
    (chosen : chooseAccess st (l ++ [a]) = some (x, rest)) : a ∈ x :: rest := by
  have whole {y : Access} {m : List Access} (split : l ++ [a] = y :: m) : a ∈ y :: m := split ▸ by simp
  cases hl : l ++ [a] with
  | nil => simp at hl
  | cons y m =>
    rw [hl] at chosen
    cases st with
    | ready row =>
      simp only [chooseAccess] at chosen
      split at chosen
      · cases found : splitHit row (y :: m) with
        | none =>
          rw [found] at chosen
          cases chosen
          exact whole hl
        | some z =>
          rw [found] at chosen
          cases chosen
          exact splitHit_keeps_last (hl ▸ found)
      · cases chosen
        exact whole hl
    | idle | opening | accessing | closing | refreshing | preserved | off =>
      cases chosen
      exact whole hl

/-- A pick leaves an access at the end of the queue queued or current. -/
theorem BankCtl.pick_keeps_last {k : BankCtl} {l : List Access} {a : Access} (queue : k.queue = l ++ [a]) :
    a ∈ k.pick.queue ++ k.pick.current.toList := by
  unfold BankCtl.pick
  split
  · split
    · rename_i x rest chosen
      rw [queue] at chosen
      obtain rfl | among := List.mem_cons.1 (chooseAccess_keeps_last chosen)
      · simp
      · simp [among]
    · simp [queue]
  · simp [queue]

theorem BankCtl.pick_single_idle (a : Access) :
    BankCtl.pick { state := .idle, current := none, queue := [a] } =
      { state := .opening a.row, current := some a, queue := [] } := rfl

theorem BankCtl.pick_single_ready (row : Nat) (a : Access) :
    BankCtl.pick { state := .ready row, current := none, queue := [a] } =
      { state := if row = a.row then .accessing row else .closing row, current := some a, queue := [] } := by
  have chosen : chooseAccess (.ready row) [a] = some (a, []) := by
    simp only [chooseAccess, splitHit]
    split
    · split <;> rfl
    · rfl
  simp only [BankCtl.pick, BankCtl.free, chosen, stateForPick, Option.isNone_none, Bool.and_self, if_true, eq_comm (a := row)]

/-- What an access that joins its queue makes of its bank. -/
theorem State.enqueue_bank {a : Access} {s : State} (bypass : a.bypass = 0) :
    (s.enqueue a).bank (bankOf a.cell) =
      let joined : BankCtl := { s.bank (bankOf a.cell) with queue := (s.bank (bankOf a.cell)).queue ++ [a] }
      if s.refresh.hold then joined else joined.pick := by
  have same : { a with bypass := 0 } = a := by
    obtain ⟨p, t, c, w, n⟩ := a
    cases bypass
    rfl
  unfold State.enqueue State.pickBank
  simp only [same]
  split
  · rw [if_pos (by assumption), State.bank_modBank_same]
  · rw [if_neg (by assumption), State.bank_modBank_same, State.bank_modBank_same]

theorem State.joins_enqueue {a : Access} (s : State) (bypass : a.bypass = 0) :
    Joins s.refresh.hold a (s.bank (bankOf a.cell)) ((s.enqueue a).bank (bankOf a.cell)) := by
  rw [State.enqueue_bank bypass]
  refine ⟨fun waits => ?_, fun lifted bank => ?_, fun row lifted bank => ?_, ?_⟩
  · cases hold : s.refresh.hold with
    | true => rfl
    | false =>
      simp only [Bool.false_eq_true, if_false]
      refine BankCtl.pick_busy (Bool.eq_false_iff.2 (fun free => ?_))
      obtain ⟨current, idle | ⟨row, ready⟩⟩ := BankCtl.free_iff.1 free
      · exact waits.elim (by simp [hold]) (fun w => w.elim (· current) (fun w => w.2 idle))
      · exact waits.elim (by simp [hold]) (fun w => w.elim (· current) (fun w => w.1 row ready))
  · simp only [lifted, bank, Bool.false_eq_true, if_false, List.nil_append]
    exact BankCtl.pick_single_idle a
  · simp only [lifted, bank, Bool.false_eq_true, if_false, List.nil_append]
    exact BankCtl.pick_single_ready row a
  · cases s.refresh.hold with
    | true => simp
    | false => exact BankCtl.pick_keeps_last rfl

theorem Update.eq_zero_of_ofCode {n : Nat} (h : Update.ofCode n = some .none) : n = 0 := by
  unfold Update.ofCode at h
  split at h <;> simp_all

theorem StampAct.eq_zero_of_ofCode {n : Nat} (h : StampAct.ofCode n = some .keep) : n = 0 := by
  unfold StampAct.ofCode at h
  split at h <;> simp_all

theorem workPermitted_rights {k : Kind} {f : Frame} {w : Work} {r : Right} (work : requestedWork k f = some w)
    (permitted : workPermitted w r) : rightsFor k f r = true := by
  have reads {r : Right} (some : r ≠ .none) : r.permitsRead = true := by
    cases r with
    | none => exact absurd rfl some
    | read | update => rfl
  cases k with
  | operate =>
    obtain ⟨op, fields, rfl⟩ := Option.map_eq_some_iff.1 work
    obtain ⟨-, -, upd, stamp, -⟩ := Frame.operateFields_iff.1 fields
    have coded : f.operateReadsOnly = true → op.upd = .none ∧ op.stamp = .keep := by
      intro only
      obtain ⟨u, a⟩ := Frame.operateReadsOnly_iff.1 only
      rw [u] at upd
      rw [a] at stamp
      exact ⟨(Option.some.inj upd).symm, (Option.some.inj stamp).symm⟩
    simp only [workPermitted] at permitted
    simp only [rightsFor]
    split
    · rw [if_pos (coded (by assumption))] at permitted
      exact reads permitted
    · rename_i more
      split at permitted
      · rename_i same
        rw [same.1] at upd
        rw [same.2] at stamp
        exact absurd (Frame.operateReadsOnly_iff.2 ⟨Update.eq_zero_of_ofCode upd, StampAct.eq_zero_of_ofCode stamp⟩) more
      · rw [permitted]
        rfl
  | groupRead =>
    cases work
    exact reads permitted
  | setRecovery =>
    cases work
    rw [show r = .update from permitted]
    rfl
  | watch =>
    obtain ⟨x, -, rfl⟩ := Option.map_eq_some_iff.1 work
    exact reads permitted
  | cancel | unwatch | fetchEvents | attnOn | attnOff | quiesce | wake | writeRegion | readRegion | writeSettings
  | initCells | commit | reopen | stay | join | leave | status => cases work

theorem requestedWork_cell {k : Kind} {f : Frame} {w : Work} (work : requestedWork k f = some w) :
    k ∈ [Kind.operate, .groupRead, .setRecovery, .watch] ∧ fieldsOk k f = true ∧
      ∀ p s, serveOf k p f s = s.enqueue (cellAccess p f w) := by
  cases k with
  | operate =>
    obtain ⟨op, fields, rfl⟩ := Option.map_eq_some_iff.1 work
    exact ⟨by simp, by simp [fieldsOk, fields], fun p s => by simp only [serveOf, serveOperate, fields]⟩
  | groupRead | setRecovery =>
    cases work
    exact ⟨by simp, rfl, fun _ _ => rfl⟩
  | watch =>
    obtain ⟨x, fields, rfl⟩ := Option.map_eq_some_iff.1 work
    exact ⟨by simp, by simp [fieldsOk, fields], fun p s => by simp only [serveOf, serveWatch, fields]⟩
  | cancel | unwatch | fetchEvents | attnOn | attnOff | quiesce | wake | writeRegion | readRegion | writeSettings
  | initCells | commit | reopen | stay | join | leave | status => cases work

/-- An access that joins its queue, as the state with its bank replaced. -/
theorem State.enqueue_eq {a : Access} {s : State} {k : BankCtl} (bank : (s.enqueue a).bank (bankOf a.cell) = k) :
    s.enqueue a = { s with banks := s.banks.set (bankOf a.cell) k } := by
  rw [State.enqueue_frame, bank]

/-- Settles O12: an accepted cell request passes every check, and its access joins its queue. -/
theorem cellRequestJoinsItsBankQueue : Obligations.CellRequestJoinsItsBankQueue := by
  unfold Obligations.CellRequestJoinsItsBankQueue
  intro k p f s w e h run work region permitted b a t
  obtain ⟨kind, fields, serves⟩ := requestedWork_cell work
  have rights : rightsCheck k p f s.table = none := by
    rw [rightsCheck_cell kind, accessCheck_of_region region, if_pos (workPermitted_rights work permitted)]
  have served : exec (requestOf k p f) s = .next (t.enqueue a) := by
    rw [exec_accepted h (configCheck_cell kind run) rights fields, serves]
    rfl
  have joins : Joins s.refresh.hold a (s.bank b) ((t.enqueue a).bank b) := t.joins_enqueue (a := a) rfl
  rw [served]
  refine ⟨fun waits => ?_, fun lifted bank => ?_, fun row lifted bank => ?_⟩
  · exact congrArg _ (State.enqueue_eq (joins.waits waits))
  · exact congrArg _ (State.enqueue_eq (joins.idle lifted bank))
  · exact congrArg _ (State.enqueue_eq (joins.ready row lifted bank))

/-! ### Attention and fetched records (R79 to R81) -/

theorem exec_attention {p : Port} {f : Frame} {s : State} :
    (Accepted .attnOn p f s → exec (.attnOn p f) s = .next
      { s.answered .attnOn p f .ok with events := s.events.set p { s.eventPort p with attention := true } }) ∧
    (Accepted .attnOff p f s → exec (.attnOff p f) s = .next
      { s.answered .attnOff p f .ok with events := s.events.set p { s.eventPort p with attention := false } }) := by
  have serves (k : Kind) (on : Bool) :
      ((s.admitted (keepsVote k) p f).setAttention p on).answer k p f .ok =
        { s.answered k p f .ok with events := s.events.set p { s.eventPort p with attention := on } } :=
    State.answer_alive (s.admitted_alive (keepsVote k) p f)
  exact ⟨fun h => (exec_accepted h rfl rfl rfl).trans (congrArg _ (serves _ _)),
    fun h => (exec_accepted h rfl rfl rfl).trans (congrArg _ (serves _ _))⟩

theorem exec_fetchEvents {p : Port} {f : Frame} {s : State} (ready : Ready .fetchEvents p f s) (up : (s.hpu p).port = .up) :
    exec (.fetchEvents p f) s = .next
      { s.answered .fetchEvents p f
          (.events ((s.eventPort p).queue.take 4) ((s.eventPort p).queue.length - 4)) with
        events := s.events.set p { s.eventPort p with queue := (s.eventPort p).queue.drop 4 } } := by
  have passes : (s.receiveValid p).refusal .fetchEvents p f = none := by
    rw [State.refusal_receiveValid, Hpu.validFrame_up up]
    cases s.refresh.power <;> rfl
  have served : serveFetchEvents p f (s.admitted (keepsVote .fetchEvents) p f) = _ :=
    State.answer_alive (s.admitted_alive (keepsVote .fetchEvents) p f)
  rw [List.length_drop] at served
  exact (exec_served ready passes).trans (congrArg _ served)

theorem State.atn_iff {s : State} {p : Port} :
    s.atn p = true ↔ (s.hpu p).port = .up ∧ (s.eventPort p).attention = true ∧ (s.eventPort p).queue ≠ [] := by
  simp [State.atn, State.isUp, and_assoc]

/-- The ATN line of every port, after one port's event port has been replaced and its own state is as it was. -/
theorem State.atn_set {s t : State} {p q : Port} {x : EventPort} (events : t.events = s.events.set p x)
    (ports : ∀ q, (t.hpu q).port = (s.hpu q).port) :
    t.atn q = true ↔
      if q = p then (s.hpu p).port = .up ∧ x.attention = true ∧ x.queue ≠ [] else s.atn q = true := by
  rw [State.atn_iff, State.eventPort, events, ports]
  split
  · rename_i same
    subst same
    rw [Four.get_set_same]
  · rename_i other
    rw [Four.get_set_other _ _ other, State.atn_iff, State.eventPort]

theorem State.answered_port {k : Kind} {p : Port} {f : Frame} {body : RespBody} {s : State} (up : (s.hpu p).port = .up)
    (q : Port) : ((s.answered k p f body).hpu q).port = (s.hpu q).port := by
  by_cases same : q = p
  · subst same
    rw [State.answered, State.hpu_handed_same, State.hpu_admitted_same]
    exact (Hpu.validFrame_up up).trans up.symm
  · rw [State.answered, State.hpu_handed_other _ _ same, State.hpu_admitted_other _ _ _ same]

/-- Settles O13: each request's next state, and the line read off it. -/
theorem attentionAndFetchedRecords : Obligations.AttentionAndFetchedRecords := by
  unfold Obligations.AttentionAndFetchedRecords
  refine ⟨fun p f s => exec_attention, fun p f s => exec_fetchEvents,
    fun p q f s t => ⟨fun h run => ?_, fun h run => ?_, fun ready up run => ?_⟩, fun p q e s => ?_⟩
  · cases (exec_attention.1 h).symm.trans run
    refine (State.atn_set (s := s) (x := { s.eventPort p with attention := true }) (by rfl)
      (fun _ => by exact State.answered_port h.up _)).trans ?_
    simp [h.up]
  · cases (exec_attention.2 h).symm.trans run
    refine (State.atn_set (s := s) (x := { s.eventPort p with attention := false }) (by rfl)
      (fun _ => by exact State.answered_port h.up _)).trans ?_
    split <;> simp [*]
  · cases (exec_fetchEvents ready up).symm.trans run
    refine (State.atn_set (s := s) (x := { s.eventPort p with queue := (s.eventPort p).queue.drop 4 }) (by rfl)
      (fun _ => by exact State.answered_port up _)).trans ?_
    simp [up]
  · by_cases up : (s.hpu p).port = .up
    · rw [State.raise_up _ up, State.atn_set (s := s) (x := (s.eventPort p).take e) (by rfl) (fun _ => by rfl)]
      have taken : ((s.eventPort p).take e).queue ≠ [] := by
        unfold EventPort.take
        simp only
        split
        · simp
        · rename_i full
          exact fun empty => full (by rw [empty]; decide)
      simp [up, taken]
    · rw [State.raise_absent _ up]
      split
      · rename_i same
        subst same
        simp [State.atn_iff, up]
      · rfl

end Sys2Proof.Machine

namespace Sys2Proof.Machine

/-! ### The words of responses and event records (11.3, R173) -/

theorem bit_le (b : Bool) : bit b ≤ 1 := by cases b <;> decide

theorem ownerCode_lt (o : Option Port) : ownerCode o < 8 := by
  cases o with
  | none => decide
  | some p => exact lt_of_lt_of_le p.isLt (by decide)

theorem Status.code_names (st : Status) :
    [Status.ok, .badKind, .badField, .notJoined, .notRunning, .notSetup, .asleep, .noRegion, .denied, .void, .lost,
      .stampFull, .watchFull, .stale, .overlap, .superseded, .notFound][(packWord [(0, st.code)]).toNat]? = some st := by
  cases st <;> decide

theorem OpOutcome.code_eq (x : OpOutcome) :
    x.code = [OpOutcome.done, .false, .unparked, .expired, .cancelled, .withdrawn].idxOf x := by cases x <;> decide

theorem policyCode_eq (x : LossPolicy) : policyCode x = [LossPolicy.restore, .release, .hold].idxOf x := by
  cases x <;> decide

theorem rightCode_eq (x : Right) : rightCode x = [Right.none, .read, .update].idxOf x := by cases x <;> decide

theorem pageCode_eq (x : PagePolicy) : pageCode x = [PagePolicy.opened, .closed].idxOf x := by cases x <;> decide

theorem faultCode_eq (x : FaultReason) :
    faultCode x = [FaultReason.tagInUse, .frameCheck, .frameLength].idxOf x + 1 := by cases x <;> decide

theorem lossCode_eq (x : LossReason) : lossCode x = bit (x == .leave) := by cases x <;> rfl

theorem CfgState.code_eq (x : CfgState) : x.code = [CfgState.setup, .committing, .run, .draining].idxOf x := by
  cases x <;> decide

theorem PowerState.code_eq (x : PowerState) : x.code = [PowerState.active, .entering, .retained, .waking].idxOf x := by
  cases x <;> decide

theorem PortState.code_eq (x : PortState) : x.code = [PortState.down, .linked, .up, .clearing].idxOf x := by
  cases x <;> decide

theorem OpOutcome.code_lt (x : OpOutcome) : x.code < 8 := by cases x <;> decide
theorem policyCode_lt (x : LossPolicy) : policyCode x < 4 := by cases x <;> decide
theorem rightCode_lt (x : Right) : rightCode x < 4 := by cases x <;> decide
theorem pageCode_lt (x : PagePolicy) : pageCode x < 4 := by cases x <;> decide
theorem faultCode_lt (x : FaultReason) : faultCode x < 4 := by cases x <;> decide
theorem CfgState.code_lt (x : CfgState) : x.code < 4 := by cases x <;> decide
theorem PowerState.code_lt (x : PowerState) : x.code < 4 := by cases x <;> decide
theorem PortState.code_lt (x : PortState) : x.code < 4 := by cases x <;> decide

theorem operateWord_carries (r : OpReport) :
    carries
      (packWord
        [(8, r.outcome.code), (16, bit r.flags.c), (17, bit r.flags.z), (18, bit r.flags.n), (19, bit r.flags.v),
          (20, bit r.wrapped), (24, ownerCode r.owner)])
      [(8, 3, r.outcome.code), (16, 1, bit r.flags.c), (17, 1, bit r.flags.z), (18, 1, bit r.flags.n),
        (19, 1, bit r.flags.v), (20, 1, bit r.wrapped), (24, 3, ownerCode r.owner)] :=
  carries_packWord ⟨by simp, by simp [r.outcome.code_lt, bit_le, ownerCode_lt]⟩


theorem groupEntryWords_carry (e : GroupEntry) :
    ∃ x y, groupEntryWords e = [x, y] ∧
      (e = .void → carries x [(0, 2, 0), (4, 3, 4)] ∧ y = 0) ∧
      (∀ v o, e = .live v o → carries x [(0, 2, 1), (4, 3, ownerCode o)] ∧ y = v) ∧
      (e = .lost → carries x [(0, 2, 2), (4, 3, 4)] ∧ y = 0) ∧
      (e = .withheld → carries x [(0, 2, 3), (4, 3, 7)] ∧ y = 0) := by
  have word {state owner : Nat} (s : state < 4) (o : owner < 8) :
      carries (packWord [(0, state), (4, owner)]) [(0, 2, state), (4, 3, owner)] :=
    carries_packWord ⟨by simp, by simp [s, o]⟩
  cases e with
  | void => exact ⟨_, _, rfl, fun _ => ⟨word (by decide) (by decide), rfl⟩, nofun, nofun, nofun⟩
  | lost => exact ⟨_, _, rfl, nofun, nofun, fun _ => ⟨word (by decide) (by decide), rfl⟩, nofun⟩
  | withheld => exact ⟨_, _, rfl, nofun, nofun, nofun, fun _ => ⟨word (by decide) (by decide), rfl⟩⟩
  | live v o =>
    refine ⟨_, _, rfl, nofun, ?_, nofun, nofun⟩
    rintro _ _ ⟨⟩
    exact ⟨word (by decide) (ownerCode_lt o), rfl⟩

theorem watchWord_carries {i : Nat} (o : Option Port) (last : Option Bool) (id : i < 32) :
    carries (packWord [(8, i), (16, bit last.isSome), (17, bit (last.getD false)), (24, ownerCode o)])
      [(8, 5, i), (16, 1, bit last.isSome), (17, 1, bit (last == some true)), (24, 3, ownerCode o)] := by
  have same : last.getD false = (last == some true) := by
    obtain _ | _ | _ := last <;> rfl
  rw [same]
  exact carries_packWord ⟨by simp, by simp [id, bit_le, ownerCode_lt]⟩

/-- The first word of an event record carries the event's code and its sequence number. -/
theorem recordHead_carries (r : EventRecord) :
    carries (packWord [(0, r.event.code), (16, r.seq.toNat)]) [(0, 8, r.event.code), (16, 16, r.seq.toNat)] := by
  have code : r.event.code < 256 := by unfold Event.code; split <;> decide
  exact carries_packWord ⟨by simp, by simp [code, r.seq.isLt]⟩

theorem portWord_carries (p : Port) : carries (packWord [(0, p.val)]) [(0, 2, p.val)] :=
  carries_packWord (fields := [(0, 2, p.val)]) ⟨by simp, by simp [p.isLt]⟩

theorem firedWord_carries {i c owner : Nat} (id : i < 32) (cell : c < 65536) (o : owner < 8) :
    carries (packWord [(0, i), (8, owner), (16, c)]) [(0, 8, i), (8, 3, owner), (16, 16, c)] :=
  carries_packWord ⟨by simp, by simp [lt_trans id (by decide : 32 < 256), cell, o]⟩

theorem clearedWord_carries {a b c : Nat} (ha : a ≤ 64) (hb : b ≤ 64) (hc : c ≤ 64) :
    carries (packWord [(0, a), (8, b), (16, c)]) [(0, 8, a), (8, 8, b), (16, 8, c)] :=
  carries_packWord
    ⟨by simp, by simp [lt_of_le_of_lt ha (by decide : 64 < 256), lt_of_le_of_lt hb (by decide : 64 < 256),
      lt_of_le_of_lt hc (by decide : 64 < 256)]⟩

theorem faultWord_carries (reason : FaultReason) (tag : Option Tag) (code : Option Byte) :
    carries
      (packWord
        [(0, faultCode reason), (8, bit tag.isSome), (9, bit code.isSome), (16, (tag.getD 0).val),
          (24, (code.getD 0).toNat)])
      [(0, 2, faultCode reason), (8, 1, bit tag.isSome), (9, 1, bit code.isSome), (16, 3, (tag.getD 0).val),
        (24, 8, (code.getD 0).toNat)] := by
  have byte : (code.getD 0#8).toNat < 256 := (code.getD 0).isLt
  exact carries_packWord ⟨by simp, by simp [faultCode_lt, bit_le, (tag.getD 0).isLt, byte]⟩

theorem lossWord_carries (p : Port) (reason : LossReason) :
    carries (packWord [(0, p.val), (8, lossCode reason)]) [(0, 2, p.val), (8, 1, bit (reason == .leave))] := by
  rw [lossCode_eq]
  exact carries_packWord ⟨by simp, by simp [p.isLt, bit_le]⟩

theorem generationWord_carries (g : Count16) : carries (packWord [(16, g.toNat)]) [(16, 16, g.toNat)] :=
  carries_packWord (fields := [(16, 16, g.toNat)]) ⟨by simp, by simp [g.isLt]⟩

theorem selectorWord_carries {n : Nat} (small : n ≤ 16) (g : Count16) :
    carries (packWord [(8, n), (16, g.toNat)]) [(8, 8, n), (16, 16, g.toNat)] :=
  carries_packWord ⟨by simp, by simp [lt_of_le_of_lt small (by decide : 16 < 256), g.isLt]⟩

theorem regionWord_carries {n : Nat} (small : n < 16) (e : RegionEntry) :
    carries
      (packWord
        [(0, n), (8, bit e.valid), (9, policyCode e.policy), (16, rightCode e.rights.zero), (18, rightCode e.rights.one),
          (20, rightCode e.rights.two), (22, rightCode e.rights.three)])
      [(0, 8, n), (8, 1, bit e.valid), (9, 2, policyCode e.policy), (16, 2, rightCode e.rights.zero),
        (18, 2, rightCode e.rights.one), (20, 2, rightCode e.rights.two), (22, 2, rightCode e.rights.three)] :=
  carries_packWord
    ⟨by simp, by simp [lt_trans small (by decide : 16 < 256), bit_le, policyCode_lt, rightCode_lt]⟩

theorem statusWord_carries (r : StatusReport) :
    carries
      (packWord
        [(0, r.config.code), (4, r.power.code), (8, bit r.overrun), (16, r.ports.zero.code), (18, r.ports.one.code),
          (20, r.ports.two.code), (22, r.ports.three.code)])
      [(0, 2, r.config.code), (4, 2, r.power.code), (8, 1, bit r.overrun), (16, 2, r.ports.zero.code),
        (18, 2, r.ports.one.code), (20, 2, r.ports.two.code), (22, 2, r.ports.three.code)] :=
  carries_packWord ⟨by simp, by simp [CfgState.code_lt, PowerState.code_lt, PortState.code_lt, bit_le]⟩

theorem countsWord_carries {a b c d : Nat} (ha : a ≤ 24) (hb : b ≤ 32) (hc : c ≤ 64) (hd : d ≤ 16) :
    carries (packWord [(0, a), (8, b), (16, c), (24, d)]) [(0, 5, a), (8, 6, b), (16, 7, c), (24, 5, d)] :=
  carries_packWord
    ⟨by simp, by simp [lt_of_le_of_lt ha (by decide : 24 < 32), lt_of_le_of_lt hb (by decide : 32 < 64),
      lt_of_le_of_lt hc (by decide : 64 < 128), lt_of_le_of_lt hd (by decide : 16 < 32)]⟩

theorem settingsWord_carries {x : Settings} (small : x.interval < 256) :
    carries (settingsWord x) [(0, 8, x.interval), (8, 2, pageCode x.page), (16, 4, x.mask.toNat)] :=
  carries_packWord ⟨by simp, by simp [small, pageCode_lt, x.mask.isLt]⟩

theorem numberWord_toNat {n : Nat} (small : n ≤ 65536) : (packWord [(0, n)]).toNat = n := by
  simp only [packWord, List.foldl_cons, List.foldl_nil, BitVec.toNat_ofNat]
  omega

/-- An event record's three words, by the kind of its event. -/
theorem recordWords_carry (r : EventRecord) :
    ∃ x y z, recordWords r = [x, y, z] ∧
      carries x [(0, 8, r.event.code), (16, 16, r.seq.toNat)] ∧ y = r.event.secondWord ∧ z = r.event.thirdWord :=
  ⟨_, _, _, rfl, recordHead_carries r, rfl, rfl⟩

theorem Response.readHeader_words (r : Response) :
    readHeader r.words = (r.kind, { tag := r.tag, length := BitVec.ofNat 8 r.body.words.length, payload := r.body.words }) :=
  readHeader_frameWords _ _

/-- Settles O53: the words of each kind of response, field by field. -/
theorem responsesAreLaidOut : Obligations.ResponsesAreLaidOut := by
  unfold Obligations.ResponsesAreLaidOut
  refine ⟨fun r _ => ⟨frameCheckOk_frameWords _ _, r.readHeader_words⟩, ?_⟩
  intro flag owner
  have flag_eq : flag = bit := rfl
  have owner_eq : owner = ownerCode := by
    funext o
    cases o <;> rfl
  rw [flag_eq, owner_eq]
  refine ⟨fun st => ⟨_, rfl, st.code_names⟩, ?overlap, rfl, ?operate, ?groupRead, ?setRecovery,
    fun i v o last id => ⟨_, rfl, watchWord_carries o last id⟩, ?events, fun g => ⟨_, rfl, generationWord_carries g⟩,
    ?region, ?settings, ?inited, ?status⟩
  case overlap =>
    exact fun i j hi hj => ⟨_, rfl, carries_packWord ⟨by simp, by simp [hi, hj]⟩⟩
  case operate =>
    intro r
    refine ⟨_, rfl, ?_⟩
    rw [← r.outcome.code_eq]
    exact operateWord_carries r
  case groupRead =>
    intro c es cell
    refine ⟨_, es.map groupEntryWords, rfl, carries_packWord (fields := [(0, 16, c)]) ⟨by simp, by simp [cell]⟩,
      List.length_map _, fun k e at_k => ?_⟩
    obtain ⟨x, y, words, laid⟩ := groupEntryWords_carry e
    exact ⟨x, y, by rw [List.getElem?_map, at_k, Option.map_some, words], laid⟩
  case setRecovery =>
    exact fun previous =>
      ⟨_, rfl, carries_packWord (fields := [(8, 1, bit previous.isSome)]) ⟨by simp, by simp [bit_le]⟩⟩
  case events =>
    intro rs remaining few left
    refine ⟨_, rs.map recordWords, rfl, ?_, List.length_map _, fun k r at_k => ?_⟩
    · exact carries_packWord
        ⟨by simp, by simp [lt_of_le_of_lt few (by decide : 4 < 8), lt_of_le_of_lt left (by decide : 16 < 32)]⟩
    · obtain ⟨x, y, z, words, head, rfl, rfl⟩ := recordWords_carry r
      refine ⟨x, _, _, by rw [List.getElem?_map, at_k, Option.map_some, words], ?_⟩
      obtain ⟨seq, event⟩ := r
      refine ⟨?fired, ?cellLost, ?portJoined, ?portLost, ?portCleared, ?running, ?reconfigured, ?retaining, ?awake,
        ?overrun, ?portFault⟩
      case fired =>
        rintro i c v o ⟨⟩ id cell
        exact ⟨head, firedWord_carries id cell (ownerCode_lt o), rfl⟩
      case cellLost =>
        rintro i c ⟨⟩ id cell
        exact ⟨head, firedWord_carries id cell (by decide), rfl⟩
      case portJoined =>
        rintro p ⟨⟩
        exact ⟨head, portWord_carries p, rfl⟩
      case portLost =>
        rintro p reason ⟨⟩
        exact ⟨head, lossWord_carries p reason, rfl⟩
      case portCleared =>
        rintro p a b c ⟨⟩ ha hb hc
        exact ⟨head, portWord_carries p, clearedWord_carries ha hb hc⟩
      case portFault =>
        rintro reason tag code ⟨⟩
        rw [← faultCode_eq]
        exact ⟨head, rfl, faultWord_carries reason tag code⟩
      all_goals
        rintro ⟨⟩
        exact ⟨head, rfl, rfl⟩
  case region =>
    intro n e g number base length
    refine ⟨_, _, _, _, rfl, selectorWord_carries (le_of_lt number) g, ?_, ?_, ?_⟩
    · rw [← policyCode_eq]
      simp only [← rightCode_eq]
      exact regionWord_carries number e
    · exact carries_packWord (fields := [(0, 16, e.base)]) ⟨by simp, by simp [base]⟩
    · exact carries_packWord (fields := [(0, 17, e.length)])
        ⟨by simp, by simp [lt_of_le_of_lt length (by decide : 65536 < 131072)]⟩
  case settings =>
    intro x g interval
    refine ⟨_, _, rfl, selectorWord_carries (n := 16) le_rfl g, ?_⟩
    rw [← pageCode_eq]
    exact settingsWord_carries interval
  case inited =>
    exact fun cells groups hc hg =>
      ⟨_, _, rfl, numberWord_toNat hc, numberWord_toNat (le_trans hg (by decide))⟩
  case status =>
    intro r occupancy watches stamps events
    refine ⟨_, _, _, rfl, generationWord_carries _, ?_, countsWord_carries occupancy watches stamps events⟩
    rw [← CfgState.code_eq, ← PowerState.code_eq]
    simp only [← PortState.code_eq]
    exact statusWord_carries r

end Sys2Proof.Machine

namespace Sys2Proof.Machine

/-! ### Cell records written, with stamp lists and teardown records (R10 to R12, R163) -/

theorem Four.get_of {α : Type} (f : Fin 4 → α) (q : Fin 4) : (⟨f 0, f 1, f 2, f 3⟩ : Four α).get q = f q := by
  fin_cases q <;> rfl

theorem State.putCell_kept {c : CellIx} {r : CellRec} {s : State} (owner : (s.readCell c).owner = r.owner) :
    s.putCell c r = { s with cells := s.cells.write c r } := by
  unfold State.putCell State.moveStamp
  rw [if_pos owner]

theorem State.putCell_taken {c : CellIx} {r : CellRec} {s : State} {p : Port} (before : (s.readCell c).owner = none)
    (after : r.owner = some p) :
    s.putCell c r = { s with cells := s.cells.write c r, stamps := s.stamps.set p (s.stamps.get p ++ [c]) } := by
  unfold State.putCell State.moveStamp
  simp only [before, after, reduceCtorEq, if_false]
  rfl

theorem State.putCell_givenUp {c : CellIx} {r : CellRec} {s : State} {p : Port} (before : (s.readCell c).owner = some p)
    (after : r.owner = none) :
    s.putCell c r =
      { s with
        cells := s.cells.write c r
        stamps := s.stamps.set p ((s.stamps.get p).filter (fun x => x != c))
        teardown := s.teardown.set p
          ((s.teardown.get p).map (fun r => { r with passed := r.passed.filter (fun x => x != c) })) } := by
  unfold State.putCell State.moveStamp
  simp only [before, after, reduceCtorEq, if_false]
  rfl

theorem State.unlist_teardown (p : Port) (c : CellIx) (s : State) (q : Port) :
    (s.unlist p c).teardown.get q =
      if some p = some q then (s.teardown.get q).map (fun r => { r with passed := r.passed.filter (fun x => x != c) })
      else s.teardown.get q := by
  change (s.teardown.set p _).get q = _
  rw [Four.get_set]
  split
  · rename_i same
    subst same
    rw [if_pos rfl]
  · rename_i other
    rw [if_neg (fun same => other (Option.some.inj same).symm)]

/-- The teardown record of a port after a write of a cell record: the cell is no longer one its walk has passed when the
port has lost it (R163). -/
theorem State.putCell_teardown (c : CellIx) (r : CellRec) (s : State) (q : Port) :
    (s.putCell c r).teardown.get q =
      if (s.readCell c).owner = r.owner then s.teardown.get q
      else if (s.readCell c).owner = some q then
        (s.teardown.get q).map (fun r => { r with passed := r.passed.filter (fun x => x != c) })
      else s.teardown.get q := by
  unfold State.putCell State.moveStamp
  split
  · rfl
  · cases (s.readCell c).owner with
    | none => cases r.owner <;> rfl
    | some p =>
      cases r.owner <;> exact State.unlist_teardown p c s q

/-- A cell record written LIVE, as the statements give it. -/
theorem State.putCell_live (c : CellIx) (v : Word) (o : Option Port) (r : Option Word) (s : State) :
    s.putCell c (.live v o r) = s.cellLeft c v o r := by
  have owner : (CellRec.live v o r).owner = o := rfl
  have stamps : (s.putCell c (.live v o r)).stamps = (s.cellLeft c v o r).stamps := by
    refine Four.eq_of_get (fun q => ?_)
    rw [State.putCell_stamps, owner]
    unfold State.cellLeft
    simp only
    split
    · rfl
    · rename_i changed
      refine Eq.trans ?_ (Four.get_of (fun q =>
        (if (s.readCell c).owner = some q then (s.stamps.get q).filter (fun x => x != c) else s.stamps.get q) ++
          if o = some q then [c] else []) q).symm
      split
      · rename_i mine
        rw [if_neg (fun before => changed (before.trans mine.symm))]
      · rw [List.append_nil]
  have teardown : (s.putCell c (.live v o r)).teardown = (s.cellLeft c v o r).teardown := by
    refine Four.eq_of_get (fun q => ?_)
    rw [State.putCell_teardown, owner]
    unfold State.cellLeft
    simp only
    split
    · rfl
    · exact (Four.get_of (fun q =>
        if (s.readCell c).owner = some q then
          (s.teardown.get q).map (fun r => { r with passed := r.passed.filter (fun x => x != c) })
        else s.teardown.get q) q).symm
  rw [State.putCell_frame, stamps, teardown]
  rfl

@[simp] theorem State.cellLeft_read (c : CellIx) (v : Word) (o : Option Port) (r : Option Word) (s : State) :
    (s.cellLeft c v o r).readCell c = .live v o r := by
  rw [← State.putCell_live, State.putCell_read_same]

/-! ### When an operation executes (R6, R28, R29) -/

theorem stampFull_iff {a : StampAct} {o : Option Port} {n : Nat} :
    stampFull a o n = true ↔ a = .stamp ∧ o = none ∧ 64 ≤ n := by
  rw [stampFull, Bool.and_eq_true, Bool.and_eq_true, beq_iff_eq, beq_iff_eq, decide_eq_true_iff, and_assoc]
  rfl

theorem opChanges_iff {op : OpFields} {p : Port} {v : Word} {o : Option Port} :
    opChanges op p v o = true ↔ applyUpdate op.upd v op.arg ≠ v ∨ ownerAfter op.stamp p o ≠ o := by
  simp [opChanges]

theorem isCreating_iff {op : OpFields} :
    isCreating op = true ↔ op.pred = .always ∧ op.own = .any ∧ op.upd = .set ∧ (op.stamp = .keep ∨ op.stamp = .stamp) := by
  simp [isCreating, and_assoc]

theorem readCell_cases (s : State) (c : CellIx) :
    (∃ v o r, s.readCell c = .live v o r) ∨ s.readCell c = .void ∨ s.readCell c = .lost := by
  cases s.readCell c with
  | live v o r => exact .inl ⟨v, o, r, rfl⟩
  | void => exact .inr (.inl rfl)
  | lost => exact .inr (.inr rfl)

/-- An access that changes its cell opens with an operation that `Opens` names. -/
theorem State.opens_of_openAccess {a : Access} {s : State} {x : Evaluated} (opened : s.openAccess a = some x) :
    Opens a s x.state x.answers ∧ x.changed = true := by
  unfold State.openAccess at opened
  split at opened
  · rename_i op tag work tagged
    split at opened
    · rename_i v o r live
      simp only [Option.ite_none_right_eq_some, Option.some.injEq, Bool.and_eq_true, Bool.not_eq_true'] at opened
      obtain ⟨⟨⟨guard, room⟩, changes⟩, rfl⟩ := opened
      refine ⟨?_, rfl⟩
      have opening := Opens.executes work tagged live guard
        (fun stamp free => not_le.1 (fun full => Bool.eq_false_iff.1 room (stampFull_iff.2 ⟨stamp, free, full⟩)))
        (owner := ownerAfter op.stamp a.port o) (by cases op.stamp <;> rfl) (opChanges_iff.1 changes)
      rw [← State.putCell_live] at opening
      exact opening
    · rename_i notLive
      simp only [Option.ite_none_right_eq_some, Option.some.injEq, Bool.and_eq_true, Bool.not_eq_true'] at opened
      obtain ⟨⟨creating, room⟩, rfl⟩ := opened
      refine ⟨?_, rfl⟩
      obtain ⟨pred, own, upd, stamp⟩ := isCreating_iff.1 creating
      have unset : s.readCell a.cell = .void ∨ s.readCell a.cell = .lost :=
        (readCell_cases s a.cell).resolve_left (fun ⟨_, _, _, live⟩ => notLive _ _ _ live)
      have stamped : op.stamp = .keep ∧ ownerAfter op.stamp a.port none = none ∨
          op.stamp = .stamp ∧ ownerAfter op.stamp a.port none = some a.port ∧ (s.stamps.get a.port).length < 64 := by
        obtain keep | stamp := stamp
        · exact .inl ⟨keep, by rw [keep]; rfl⟩
        · refine .inr ⟨stamp, by rw [stamp]; rfl,
            not_le.1 (fun full => Bool.eq_false_iff.1 room (stampFull_iff.2 ⟨stamp, rfl, full⟩))⟩
      have opening := Opens.creates work tagged unset pred own upd stamped
      rw [← State.putCell_live] at opening
      exact opening
  · rename_i policy default work
    split at opened
    · rename_i v o r live
      simp only [Option.ite_none_right_eq_some, Option.some.injEq] at opened
      obtain ⟨rfl, rfl⟩ := opened
      refine ⟨?_, rfl⟩
      have opening := Opens.recovers work live
      rw [← State.putCell_live] at opening
      cases policy <;> exact opening
    · cases opened
  · cases opened

/-- An operation that `Opens` names is the opening operation of its access. -/
theorem Opens.openAccess {a : Access} {s u : State} {made : List (Port × Response)} (opens : Opens a s u made) :
    s.openAccess a = some { state := u, answers := made, changed := true } := by
  unfold State.openAccess
  cases opens with
  | executes work tagged live guard room stamped changes =>
    rename_i op tag v o owner r
    obtain rfl : owner = ownerAfter op.stamp a.port o := stamped.trans (by cases op.stamp <;> rfl)
    have notFull : stampFull op.stamp o (s.stampCount a.port) = false := by
      refine Bool.eq_false_iff.2 (fun full => ?_)
      obtain ⟨stamp, free, full⟩ := stampFull_iff.1 full
      exact absurd full (not_le.2 (room stamp free))
    simp only [work, tagged, live, guard, notFull, opChanges_iff.2 changes, Bool.not_false, Bool.and_self, if_true]
    rw [State.executed, opRecord, State.putCell_live]
    rfl
  | creates work tagged unset pred own upd stamped =>
    rename_i op tag owner
    have creating : isCreating op = true :=
      isCreating_iff.2 ⟨pred, own, upd, stamped.imp (fun x => x.1) (fun x => x.1)⟩
    have notFull : stampFull op.stamp none (s.stampCount a.port) = false := by
      refine Bool.eq_false_iff.2 (fun full => ?_)
      obtain ⟨stamp, -, full⟩ := stampFull_iff.1 full
      obtain ⟨keep, -⟩ | ⟨-, -, room⟩ := stamped
      · rw [stamp] at keep
        cases keep
      · exact absurd full (not_le.2 room)
    have owned : ownerAfter op.stamp a.port none = owner := by
      obtain ⟨keep, none⟩ | ⟨stamp, mine, -⟩ := stamped
      · rw [keep, none]
        rfl
      · rw [stamp, mine]
        rfl
    have result : some (s.created a.port tag a.cell op) = some
        { state := s.cellLeft a.cell op.arg owner none
          answers := [operateAnswer a.port tag (.operate (createdReport op a.port))], changed := true } := by
      rw [State.created, State.putCell_live, owned]
    have body : createdReport op a.port =
        { outcome := .done, old := 0, new := op.arg, owner := owner, flags := compareFlags 0 op.cmp, wrapped := false } := by
      rw [createdReport, owned]
    rw [body] at result
    obtain void | lost := unset
    · simp only [work, tagged, void, creating, notFull, Bool.not_false, Bool.and_self, if_true]
      exact result
    · simp only [work, tagged, lost, creating, notFull, Bool.not_false, Bool.and_self, if_true]
      exact result
  | recovers work live =>
    rename_i policy default v r
    simp only [work, live, if_true]
    rw [State.recovered, State.putCell_live]
    cases policy <;> rfl

/-- Whether an access changes its cell depends on the cells and the stamp lists alone. -/
theorem State.openAccess_isSome {s t : State} (cells : t.cells = s.cells) (stamps : t.stamps = s.stamps) (a : Access) :
    (t.openAccess a).isSome = (s.openAccess a).isSome := by
  have read : t.readCell a.cell = s.readCell a.cell := by rw [State.readCell, cells, State.readCell]
  have count : t.stampCount a.port = s.stampCount a.port := by rw [State.stampCount, stamps, State.stampCount]
  unfold State.openAccess
  rw [read, count]
  split
  · split
    · split <;> rfl
    · split <;> rfl
  · split
    · split <;> rfl
    · rfl
  · rfl

end Sys2Proof.Machine

namespace Sys2Proof.Machine

/-! ### The accesses of a bank that is performing one (R90) -/

theorem Performing.accessing {b : Bank} {a : Access} {s : State} (h : Performing b a s) : s.accessing b = some a := by
  unfold State.accessing
  rw [h.onRow]
  exact h.current

theorem exec_operateAccess {b : Bank} {a : Access} {s : State} {tag : Tag} {op : OpFields} (h : Performing b a s)
    (tagged : a.tag = some tag) (work : a.work = .operate op) :
    exec (.operateAccess b) s = .next (s.runAccess b a (State.performOperate a.port tag a.cell op)) := by
  obtain ⟨p, t, c, w, n⟩ := a
  cases tagged
  cases work
  change execOperateAccess b s = _
  unfold execOperateAccess
  rw [whileReleased_high h.released, h.accessing]

theorem exec_recoveryAccess {b : Bank} {a : Access} {s : State} {policy : LossPolicy} {default : Option Word}
    (h : Performing b a s) (work : a.work = .recovery policy default) :
    exec (.recoveryAccess b) s = .next (s.runAccess b a (State.walk a.port)) := by
  obtain ⟨p, t, c, w, n⟩ := a
  cases work
  change execRecoveryAccess b s = _
  unfold execRecoveryAccess
  rw [whileReleased_high h.released, h.accessing]

theorem exec_groupReadAccess {b : Bank} {s : State} {p : Port} {tag : Tag} {c : CellIx} {n : Nat}
    (h : Performing b { port := p, tag := some tag, cell := c, work := .groupRead, bypass := n } s) :
    exec (.groupReadAccess b) s = .next ((s.performGroupRead p tag c).finishAccess b) := by
  change execGroupReadAccess b s = _
  unfold execGroupReadAccess
  rw [whileReleased_high h.released, h.accessing]

theorem exec_setRecoveryAccess {b : Bank} {s : State} {p : Port} {tag : Tag} {c : CellIx} {r : Option Word} {n : Nat}
    (h : Performing b { port := p, tag := some tag, cell := c, work := .setRecovery r, bypass := n } s) :
    exec (.setRecoveryAccess b) s = .next ((s.performSetRecovery p tag c r).finishAccess b) := by
  change execSetRecoveryAccess b s = _
  unfold execSetRecoveryAccess
  rw [whileReleased_high h.released, h.accessing]

theorem exec_watchAccess {b : Bank} {s : State} {p : Port} {tag : Tag} {c : CellIx} {f : WatchFields} {n : Nat}
    (h : Performing b { port := p, tag := some tag, cell := c, work := .watch f, bypass := n } s) :
    exec (.watchAccess b) s = .next ((s.performWatch p tag c f).finishAccess b) := by
  change execWatchAccess b s = _
  unfold execWatchAccess
  rw [whileReleased_high h.released, h.accessing]

theorem exec_groupWrite {b : Bank} {s : State} {p : Port} {tag : Tag} {c : CellIx} {i : InitFields} {n : Nat}
    (h : Performing b { port := p, tag := some tag, cell := c, work := .groupWrite i, bypass := n } s) :
    exec (.groupWrite b) s = .next
      (((s.writeGroup i (groupBase c)).reportGroupWrite p tag (groupBase c)).finishAccess b) := by
  change execGroupWrite b s = _
  unfold execGroupWrite
  rw [whileReleased_high h.released, h.accessing]

/-! ### An access to a cell with no entry parked on it and no watch -/

theorem State.evalWatches_none {c : CellIx} {s : State} (none : ∀ w ∈ s.watches, w.cell ≠ c) : s.evalWatches c = s := by
  have on : s.watchesOn c = [] := List.filter_eq_nil_iff.2 (fun w hw => by simpa using none w hw)
  unfold State.evalWatches
  split
  · rw [on]
    rfl
  · rfl

theorem State.chain_none {c : CellIx} {s : State} (none : ∀ e ∈ s.park, e.cell ≠ c) : s.chain c = [] :=
  List.filter_eq_nil_iff.2 (fun e he => by simpa using none e he)

theorem State.handAll_watches (answers : List (Port × Response)) (s : State) : (s.handAll answers).watches = s.watches := by
  rw [State.handAll_frame]

theorem State.putCell_park (c : CellIx) (r : CellRec) (s : State) : (s.putCell c r).park = s.park := by
  rw [State.putCell_frame]

/-- What an access does that changes its cell, with the cell's chain empty and no watch on it: its answers are handed and
it ends. -/
theorem State.runAccess_alone {b : Bank} {a : Access} {s u : State} {made : List (Port × Response)} {op : OpFields}
    (unchanging : State → State) (work : a.work = .operate op)
    (opened : s.openAccess a = some { state := u, answers := made, changed := true }) (chain : u.chain a.cell = [])
    (unwatched : ∀ w ∈ u.watches, w.cell ≠ a.cell) :
    s.runAccess b a unchanging = (u.handAll made).finishAccess b := by
  obtain ⟨state, answers⟩ := Evaluated.runOut_opening a.cell u made
  rw [State.cascade_empty chain] at state answers
  rw [State.runAccess, opened]
  simp only [State.closeAccess, work, state, answers, List.append_nil]
  rw [State.evalWatches_none (by rw [State.handAll_watches]; exact unwatched)]

/-- What an access does that leaves its cell as it is. -/
theorem State.runAccess_unchanging {b : Bank} {a : Access} {s : State} (unchanging : State → State)
    (opened : s.openAccess a = none) : s.runAccess b a unchanging = (unchanging s).finishAccess b := by
  rw [State.runAccess, opened]

/-- One response handed at the end of an access. -/
theorem State.handAll_one (p : Port) (kind : Byte) (t : Tag) (body : RespBody) (s : State) :
    s.handAll [(p, { kind := kind, tag := t, body := body })] = s.replyUp p kind t body := rfl

/-! ### OPERATE at its access (R6, R7, R25 to R33, R43) -/

/-- The cell an executing OPERATE leaves, where no walk of the requester has passed a cell yet. -/
theorem State.putCell_stamped {s : State} {p : Port} {c : CellIx} {a : StampAct} {v w : Word} {o : Option Port}
    {r r' : Option Word} (live : s.readCell c = .live v o r) (fresh : ∀ x, s.teardown.get p = some x → x.passed = [])
    (stamp : a = .stamp → o = none ∨ o = some p) (unstamp : a = .unstamp → o = some p) :
    s.putCell c (.live w (ownerAfter a p o) r') =
      { s with
        cells := s.cells.write c (.live w (ownerAfter a p o) r')
        stamps :=
          if a = .stamp ∧ o = none then s.stamps.set p (s.stamps.get p ++ [c])
          else if a = .unstamp then s.stamps.set p ((s.stamps.get p).filter (fun x => x != c))
          else s.stamps } := by
  have owner : (s.readCell c).owner = o := by rw [live]; rfl
  cases a with
  | keep => exact State.putCell_kept owner
  | stamp =>
    obtain rfl | rfl := stamp rfl
    · exact State.putCell_taken (p := p) owner rfl
    · exact State.putCell_kept owner
  | unstamp =>
    obtain rfl := unstamp rfl
    have kept : s.teardown.set p
        ((s.teardown.get p).map (fun r => { r with passed := r.passed.filter (fun x => x != c) })) = s.teardown := by
      cases record : s.teardown.get p with
      | none => rw [Option.map_none, ← record, Four.set_get]
      | some x =>
        have same : { x with passed := x.passed.filter (fun y => y != c) } = x := by
          have none := fresh x record
          obtain ⟨reason, phase, awaited, passed, current, restored, released, held⟩ := x
          cases none
          rfl
        rw [Option.map_some, same, ← record, Four.set_get]
    rw [State.putCell_givenUp (p := p) owner rfl, kept]
    rfl

/-- Settles O31: the access opens with the operation when that changes the cell, and otherwise executes it in place. -/
theorem operateExecutes : Obligations.OperateExecutes := by
  unfold Obligations.OperateExecutes
  intro b s p tag c op n v o r h live fresh pred own stamp unstamp room owner alone mine stamps
  have guard : guardHolds op p v o = true := by
    rw [guardHolds_eq, pred, own, (stampPre_iff _ _ _).2 ?_]
    · rfl
    · cases hs : op.stamp with
      | keep => trivial
      | stamp => exact stamp hs
      | unstamp => exact unstamp hs
  have notFull : stampFull op.stamp o (s.stampCount p) = false :=
    Bool.eq_false_iff.2 (fun full => room (stampFull_iff.1 full))
  have owned : owner = ownerAfter op.stamp p o := by
    change (match op.stamp with | .keep => o | .stamp => some p | .unstamp => none) = _
    cases op.stamp <;> rfl
  clear_value owner
  subst owned
  have executed : s.executed p tag c op v o r =
      { state :=
          { s with
            cells := s.cells.write c (.live (applyUpdate op.upd v op.arg) (ownerAfter op.stamp p o) r), stamps := stamps }
        answers := [operateAnswer p tag (.operate (doneReport op p v o))], changed := true } := by
    rw [State.executed, opRecord, State.putCell_stamped live fresh stamp unstamp]
  rw [exec_operateAccess h rfl rfl]
  refine congrArg _ ?_
  cases changes : opChanges op p v o with
  | true =>
    have opened : s.openAccess { port := p, tag := some tag, cell := c, work := .operate op, bypass := n } =
        some (s.executed p tag c op v o r) := by
      simp only [State.openAccess, live, guard, notFull, changes, Bool.not_false, Bool.and_self, if_true]
    obtain ⟨sameValue, sameOwner⟩ | ⟨unparked, unwatched⟩ := alone
    · exact absurd (opChanges_iff.1 changes) (by simp [sameValue, sameOwner])
    · rw [executed] at opened
      exact State.runAccess_alone _ rfl opened (State.chain_none (by exact unparked)) (by exact unwatched)
  | false =>
    have opened : s.openAccess { port := p, tag := some tag, cell := c, work := .operate op, bypass := n } = none := by
      simp only [State.openAccess, live, changes, Bool.and_false, Bool.false_eq_true, if_false]
    rw [State.runAccess_unchanging _ opened]
    simp only [State.performOperate, live, guard, if_true, State.guardTrue, notFull, Bool.false_eq_true, if_false, executed]
    rfl

/-- An OPERATE on a VOID or LOST cell that does not create it is refused. -/
theorem exec_operateAccess_unset {b : Bank} {s : State} {p : Port} {tag : Tag} {c : CellIx} {op : OpFields} {n : Nat}
    (h : Performing b { port := p, tag := some tag, cell := c, work := .operate op, bypass := n } s)
    (unset : s.readCell c = .void ∨ s.readCell c = .lost)
    (refused : isCreating op = true → stampFull op.stamp none (s.stampCount p) = true) :
    exec (.operateAccess b) s = .next
      (State.finishAccess b
        (s.answerOperate p tag (.refused (if isCreating op then .stampFull else refusalOf (s.readCell c))))) := by
  have stays : ¬(isCreating op && !stampFull op.stamp none (s.stampCount p)) = true := by
    cases creates : isCreating op with
    | false => simp
    | true => simp [refused creates]
  have unopened : s.openAccess { port := p, tag := some tag, cell := c, work := .operate op, bypass := n } = none := by
    obtain void | lost := unset
    · simp only [State.openAccess, void, stays, Bool.false_eq_true, if_false]
    · simp only [State.openAccess, lost, stays, Bool.false_eq_true, if_false]
  rw [exec_operateAccess h rfl rfl, State.runAccess_unchanging _ unopened]
  obtain void | lost := unset
  · simp only [State.performOperate, void]
  · simp only [State.performOperate, lost]

/-- An OPERATE on a LIVE cell that is refused STAMP_FULL, or whose guard is false. -/
theorem exec_operateAccess_stays {b : Bank} {s : State} {p : Port} {tag : Tag} {c : CellIx} {op : OpFields} {n : Nat}
    {v : Word} {o : Option Port} {r : Option Word}
    (h : Performing b { port := p, tag := some tag, cell := c, work := .operate op, bypass := n } s)
    (live : s.readCell c = .live v o r)
    (full : guardHolds op p v o = true → stampFull op.stamp o (s.stampCount p) = true) :
    exec (.operateAccess b) s = .next
      (State.finishAccess b
        (if guardHolds op p v o then s.answerOperate p tag (.refused .stampFull) else s.guardFalse p tag c op v o)) := by
  have stays : ¬(guardHolds op p v o && !stampFull op.stamp o (s.stampCount p) && opChanges op p v o) = true := by
    cases guard : guardHolds op p v o with
    | false => simp
    | true => simp [full guard]
  have unopened : s.openAccess { port := p, tag := some tag, cell := c, work := .operate op, bypass := n } = none := by
    simp only [State.openAccess, live, stays, Bool.false_eq_true, if_false]
  rw [exec_operateAccess h rfl rfl, State.runAccess_unchanging _ unopened]
  simp only [State.performOperate, live]
  cases guard : guardHolds op p v o with
  | false => rfl
  | true => simp only [if_true, State.guardTrue, full guard]

/-- An OPERATE whose guard is false on a LIVE cell. -/
theorem exec_operateAccess_false {b : Bank} {s : State} {p : Port} {tag : Tag} {c : CellIx} {op : OpFields} {n : Nat}
    {v : Word} {o : Option Port} {r : Option Word}
    (h : Performing b { port := p, tag := some tag, cell := c, work := .operate op, bypass := n } s)
    (live : s.readCell c = .live v o r) (no : guardHolds op p v o = false) :
    exec (.operateAccess b) s = .next (State.finishAccess b (s.guardFalse p tag c op v o)) := by
  rw [exec_operateAccess_stays h live (by simp [no]), no, if_neg (by simp)]

theorem isCreating_iff_ne {op : OpFields} :
    isCreating op = true ↔ op.pred = .always ∧ op.own = .any ∧ op.upd = .set ∧ op.stamp ≠ .unstamp := by
  rw [isCreating_iff]
  refine and_congr_right (fun _ => and_congr_right (fun _ => and_congr_right (fun _ => ?_)))
  cases op.stamp <;> simp

/-- Settles O33: an OPERATE that does not execute opens nothing, and is answered or parked. -/
theorem operateWithoutEffectOnItsCell : Obligations.OperateWithoutEffectOnItsCell := by
  unfold Obligations.OperateWithoutEffectOnItsCell
  intro b s p tag c op n h answers unmet creating
  have creates : isCreating op = true ↔ creating := isCreating_iff_ne
  refine ⟨fun void not => ?_, fun lost not => ?_, fun unset create stamp full => ?_, fun v o r live =>
    ⟨fun guard stamp free full => ?_, fun no zero => ?_, fun no patient full => ?_, fun no patient departed => ?_,
      fun no patient room up => ?_⟩⟩
  · have refused := exec_operateAccess_unset h (.inl void) (fun create => absurd (creates.1 create) not)
    rwa [if_neg (fun create => not (creates.1 create)), void] at refused
  · have refused := exec_operateAccess_unset h (.inr lost) (fun create => absurd (creates.1 create) not)
    rwa [if_neg (fun create => not (creates.1 create)), lost] at refused
  · have refused := exec_operateAccess_unset h unset (fun _ => stampFull_iff.2 ⟨stamp, rfl, full⟩)
    rwa [if_pos (creates.2 create)] at refused
  · have ended := exec_operateAccess_stays h live (fun _ => stampFull_iff.2 ⟨stamp, free, full⟩)
    rwa [if_pos guard] at ended
  · have ended := exec_operateAccess_false h live no
    rwa [State.guardFalse, if_pos zero] at ended
  · have ended := exec_operateAccess_false h live no
    rw [State.guardFalse, if_neg patient] at ended
    by_cases up : (s.hpu p).port = .up
    · rwa [if_neg (by simp [State.isUp, up]), if_neg (show ¬s.park.length < Config.parkCapacity from not_lt.2 full)] at ended
    · change exec _ s = _
      rw [ended, if_pos (by simp [State.isUp, up]), State.handAll_one, State.replyUp_absent _ _ _ up]
  · have ended := exec_operateAccess_false h live no
    rwa [State.guardFalse, if_neg patient, if_pos (by simp [State.isUp, departed])] at ended
  · have ended := exec_operateAccess_false h live no
    rwa [State.guardFalse, if_neg patient, if_neg (by simp [State.isUp, up]),
      if_pos (show s.park.length < Config.parkCapacity from room)] at ended

/-- Settles O34: the access opens with the creation. -/
theorem creatingOperateMakesTheCellLive : Obligations.CreatingOperateMakesTheCellLive := by
  unfold Obligations.CreatingOperateMakesTheCellLive
  intro b s p tag c op n h unset unparked unwatched pred own upd stamped owner
  have unowned : (s.readCell c).owner = none := by obtain void | lost := unset <;> simp only [*] <;> rfl
  have written : s.putCell c (.live op.arg owner none) =
      { s with
        cells := s.cells.write c (.live op.arg owner none)
        stamps := if op.stamp = .stamp then s.stamps.set p (s.stamps.get p ++ [c]) else s.stamps } := by
    by_cases stamp : op.stamp = .stamp
    · have mine : (CellRec.live op.arg owner none).owner = some p := if_pos stamp
      rw [State.putCell_taken unowned mine, if_pos stamp]
    · rw [State.putCell_kept (unowned.trans (if_neg stamp).symm), if_neg stamp]
  have opens : Opens { port := p, tag := some tag, cell := c, work := .operate op, bypass := n } s
      (s.cellLeft c op.arg owner none)
      [(p,
        { kind := 0x81, tag := tag,
          body := .operate
            { outcome := .done, old := 0, new := op.arg, owner := owner, flags := compareFlags 0 op.cmp,
              wrapped := false } })] := by
    refine Opens.creates rfl rfl unset pred own upd ?_
    obtain keep | ⟨stamp, room⟩ := stamped
    · exact .inl ⟨keep, if_neg (by simp [keep])⟩
    · exact .inr ⟨stamp, if_pos stamp, room⟩
  rw [← State.putCell_live, written] at opens
  rw [exec_operateAccess h rfl rfl]
  exact congrArg _ (State.runAccess_alone _ rfl opens.openAccess (State.chain_none unparked) unwatched)

/-! ### GROUP_READ and SET_RECOVERY (R15, R37 to R40) -/

theorem RegionTable.readable_iff {t : RegionTable} {p : Port} {c : CellIx} :
    t.readable p c = true ↔ ∃ e, t.regionOf c = some e ∧ e.rights.get p ≠ .none := by
  unfold RegionTable.readable
  cases t.regionOf c with
  | none => simp
  | some e =>
    cases right : e.rights.get p <;> simp [Right.permitsRead, right]

/-- Settles O39: each entry is that of the cell in its place of the wrap order. -/
theorem groupReadReportsTheGroup : Obligations.GroupReadReportsTheGroup := by
  unfold Obligations.GroupReadReportsTheGroup
  intro b s p tag c n h
  refine ⟨(groupOrder c).map (s.groupEntry p), exec_groupReadAccess h, by simp [groupOrder], fun k small => ?_⟩
  intro d readable
  have entry : ((groupOrder c).map (s.groupEntry p))[k]? = some (s.groupEntry p d) := by
    rw [List.getElem?_map, groupOrder, List.getElem?_map, List.getElem?_range small, groupBase_eq]
    rfl
  have reads : s.table.readable p d = true ↔ readable := RegionTable.readable_iff
  rw [entry]
  refine ⟨fun withheld => ?_, fun may void => ?_, fun may lost => ?_, fun v o r may live => ?_⟩
  · rw [State.groupEntry, if_neg (fun may => withheld (reads.1 may))]
  · rw [State.groupEntry, if_pos (reads.2 may), void]
  · rw [State.groupEntry, if_pos (reads.2 may), lost]
  · rw [State.groupEntry, if_pos (reads.2 may), live]

/-- Settles O40: the owner stays, so the stamp lists do. -/
theorem setRecoveryReplacesTheRecoveryValue : Obligations.SetRecoveryReplacesTheRecoveryValue := by
  unfold Obligations.SetRecoveryReplacesTheRecoveryValue
  intro b s p tag c new n h
  rw [exec_setRecoveryAccess h]
  refine ⟨fun v o before live => ?_, fun void => ?_, fun lost => ?_⟩
  · have kept : s.putCell c (.live v o new) = { s with cells := s.cells.write c (.live v o new) } :=
      State.putCell_kept (by rw [live]; rfl)
    simp only [State.performSetRecovery, live, kept]
    rfl
  · simp only [State.performSetRecovery, void]
    rfl
  · simp only [State.performSetRecovery, lost]
    rfl

end Sys2Proof.Machine

namespace Sys2Proof.Machine

/-! ### The cascade is a run of the manual's passes (R48 to R53) -/

theorem ParkEntry.isOf_iff {p : Port} {t : Tag} {e : ParkEntry} : e.isOf p t = true ↔ e.port = p ∧ e.tag = t := by
  rw [ParkEntry.isOf, Bool.and_eq_true, beq_iff_eq, beq_iff_eq]

/-- A cell that is LIVE. -/
def State.Lives (c : CellIx) (s : State) : Prop := ∃ v o r, s.readCell c = .live v o r

theorem State.Lives.putCell {c : CellIx} {s : State} (lives : s.Lives c) (d : CellIx) (v : Word) (o : Option Port)
    (r : Option Word) : (s.putCell d (.live v o r)).Lives c := by
  by_cases same : c = d
  · exact ⟨v, o, r, by rw [same, State.putCell_read_same]⟩
  · obtain ⟨v', o', r', read⟩ := lives
    exact ⟨v', o', r', by rw [State.putCell_read_other _ _ same, read]⟩

/-- What one evaluation in a pass can do: nothing to a cell that is not LIVE; a false guard renews the entry; a true one
ends it, refused or executed. -/
theorem State.evalParked_cases (e : ParkEntry) (s : State) :
    (¬s.Lives e.cell ∧ s.evalParked e = { state := s, answers := [], changed := false }) ∨
    ∃ v o r, s.readCell e.cell = .live v o r ∧
      ((guardHolds e.op e.port v o = false ∧
          s.evalParked e = { state := s.renew e.port e.tag v o, answers := [], changed := false }) ∨
        (guardHolds e.op e.port v o = true ∧ stampFull e.op.stamp o (s.stampCount e.port) = true ∧
          s.evalParked e =
            { state := s.unpark e.port e.tag, answers := [operateAnswer e.port e.tag (.refused .stampFull)]
              changed := false }) ∨
        (guardHolds e.op e.port v o = true ∧ stampFull e.op.stamp o (s.stampCount e.port) = false ∧
          s.evalParked e =
            { state := (s.unpark e.port e.tag).putCell e.cell (opRecord e.op e.port v o r)
              answers := [operateAnswer e.port e.tag (.operate (doneReport e.op e.port v o))]
              changed := opChanges e.op e.port v o })) := by
  unfold State.evalParked
  cases read : s.readCell e.cell with
  | void | lost =>
    refine .inl ⟨?_, rfl⟩
    rintro ⟨v, o, r, live⟩
    rw [read] at live
    cases live
  | live v o r =>
    refine .inr ⟨v, o, r, rfl, ?_⟩
    cases guard : guardHolds e.op e.port v o with
    | false => exact .inl ⟨rfl, by simp [guard]⟩
    | true =>
      cases full : stampFull e.op.stamp o (s.stampCount e.port) with
      | false => exact .inr (.inr ⟨rfl, rfl, by simp [guard, full]⟩)
      | true => exact .inr (.inl ⟨rfl, rfl, by simp [guard, full]⟩)

theorem State.renew_eq (p : Port) (t : Tag) (v : Word) (o : Option Port) (s : State) :
    s.renew p t v o =
      { s with
        park := s.park.map (fun x =>
          if x.port = p ∧ x.tag = t then
            { x with lastValue := v, lastOwner := o, lastFlags := compareFlags v x.op.cmp }
          else x) } := by
  simp only [State.renew, ParkEntry.isOf_iff]

theorem State.evalParked_evaluates {e : ParkEntry} {s : State} (lives : s.Lives e.cell) :
    Evaluates e s (s.evalParked e).state (s.evalParked e).answers (s.evalParked e).changed := by
  obtain ⟨dead, -⟩ | ⟨v, o, r, live, ⟨guard, eval⟩ | ⟨guard, full, eval⟩ | ⟨guard, room, eval⟩⟩ := s.evalParked_cases e
  · exact absurd lives dead
  · rw [eval, State.renew_eq]
    exact .stays live guard
  · rw [eval]
    obtain ⟨stamp, rfl, listed⟩ := stampFull_iff.1 full
    exact .refused live guard stamp listed
  · rw [eval, opRecord, State.putCell_live]
    refine .executes live guard (fun full => Bool.eq_false_iff.1 room (stampFull_iff.2 full)) ?_ opChanges_iff
    cases e.op.stamp <;> rfl

theorem State.evalParked_lives {c : CellIx} (e : ParkEntry) {s : State} (lives : s.Lives c) :
    (s.evalParked e).state.Lives c := by
  obtain ⟨-, eval⟩ | ⟨v, o, r, -, ⟨-, eval⟩ | ⟨-, -, eval⟩ | ⟨-, -, eval⟩⟩ := s.evalParked_cases e
  · rw [eval]
    exact lives
  · rw [eval]
    exact lives
  · rw [eval]
    exact lives
  · rw [eval]
    exact State.Lives.putCell (s := s.unpark e.port e.tag) lives _ _ _ _

theorem cascadePass_lives {c : CellIx} (l : List ParkEntry) {s : State} (lives : s.Lives c) :
    (cascadePass l s).state.Lives c := by
  induction l generalizing s with
  | nil => exact lives
  | cons e rest ih => exact ih (State.evalParked_lives e lives)

theorem cascadePass_passes {c : CellIx} {l : List ParkEntry} {s : State} (onCell : ∀ e ∈ l, e.cell = c) (lives : s.Lives c) :
    Passes l s (cascadePass l s).state (cascadePass l s).answers (cascadePass l s).changed := by
  induction l generalizing s with
  | nil => exact .ended s
  | cons e rest ih =>
    have here : s.Lives e.cell := by
      rw [onCell e List.mem_cons_self]
      exact lives
    exact .entry (State.evalParked_evaluates here)
      (ih (fun x hx => onCell x (List.mem_cons_of_mem _ hx)) (State.evalParked_lives e lives))

theorem State.mem_overdue {c : CellIx} {s : State} {e : ParkEntry} (he : e ∈ s.overdue c) :
    e ∈ s.park ∧ e.cell = c ∧ ∃ d, e.deadline = some d ∧ d ≤ s.now := by
  obtain ⟨chained, overdue⟩ := List.mem_filter.1 he
  obtain ⟨parked, cell⟩ := List.mem_filter.1 chained
  cases deadline : e.deadline with
  | none =>
    rw [deadline] at overdue
    cases overdue
  | some d =>
    rw [deadline] at overdue
    exact ⟨parked, eq_of_beq cell, d, rfl, of_decide_eq_true overdue⟩

/-- What the expiries after a pass can do: nothing more, or one overdue entry ended and then others. -/
theorem expireInCascade_cases (c : CellIx) (n : Nat) (s : State) :
    expireInCascade c n s = s ∨ expireInCascade c n s = { s with choices := s.choices + 1 } ∨
      ∃ m x, n = m + 1 ∧ x ∈ s.overdue c ∧
        expireInCascade c n s =
          expireInCascade c m (State.endParked x .expired { s with choices := s.choices + 1 }) := by
  cases n with
  | zero => exact .inl rfl
  | succ m =>
    cases due : s.overdue c with
    | nil => exact .inl (expireInCascade_none due _)
    | cons e rest =>
      refine .inr ?_
      simp only [expireInCascade, due]
      cases chosen : (e :: rest)[Config.expiresNext s.choices]? with
      | none => exact .inl rfl
      | some x => exact .inr ⟨m, x, rfl, List.mem_of_getElem? chosen, rfl⟩

theorem expireInCascade_expires (c : CellIx) (n : Nat) (s : State) : Expires c s (expireInCascade c n s) := by
  induction n generalizing s with
  | zero => exact .done s s.choices
  | succ n ih =>
    obtain same | same | ⟨m, x, number, overdue, ended⟩ := expireInCascade_cases c (n + 1) s
    · rw [same]
      exact .done s s.choices
    · rw [same]
      exact .done s (s.choices + 1)
    · obtain ⟨parked, cell, d, deadline, passed⟩ := State.mem_overdue overdue
      cases number
      rw [ended]
      exact .one (s.choices + 1) parked cell deadline passed (ih _)

theorem expireInCascade_lives {c d : CellIx} (n : Nat) {s : State} (lives : s.Lives d) : (expireInCascade c n s).Lives d := by
  obtain ⟨v, o, r, read⟩ := lives
  exact ⟨v, o, r, by rw [State.readCell, expireInCascade_cells]; exact read⟩

/-- The passes of a cascade, as far as they go. -/
theorem cascadeSteps_to {c : CellIx} {s : State} (n : Nat) {x : Evaluated} (lives : x.state.Lives c)
    (before : CascadeTo c s x.state x.answers x.changed) :
    (cascadeSteps c n x).state.Lives c ∧
      CascadeTo c s (cascadeSteps c n x).state (cascadeSteps c n x).answers (cascadeSteps c n x).changed := by
  induction n generalizing x with
  | zero => exact ⟨lives, before⟩
  | succ n ih =>
    obtain ⟨t, made, more⟩ := x
    cases more with
    | false =>
      rw [cascadeSteps_ended c (n + 1) rfl]
      exact ⟨lives, before⟩
    | true =>
      refine ih (x := cascadeStep c { state := t, answers := made, changed := true }) ?_ ?_
      · exact expireInCascade_lives _ (cascadePass_lives _ lives)
      · exact .pass before (cascadePass_passes (fun e he => State.cell_of_mem_chain he) lives)
          (expireInCascade_expires c _ _)

/-! ### A cascade ends: each pass that changes the cell ends an entry of the chain (R50) -/

theorem State.chain_unpark_length (c : CellIx) (p : Port) (t : Tag) (s : State) :
    ((s.unpark p t).chain c).length ≤ (s.chain c).length :=
  (List.filter_sublist.filter _).length_le

theorem State.chain_unpark_shorter {c : CellIx} {p : Port} {t : Tag} {s : State} {e : ParkEntry} (he : e ∈ s.chain c)
    (key : e.isOf p t = true) : ((s.unpark p t).chain c).length < (s.chain c).length := by
  have filtered : (s.unpark p t).chain c = (s.chain c).filter (fun x => !(x.isOf p t)) := by
    simp only [State.chain, State.unpark, List.filter_filter, Bool.and_comm]
  rw [filtered, List.length_filter_lt_length_iff_exists]
  exact ⟨e, he, by simp [key]⟩

/-- The chain after a renewal: the same entries, one with another last evaluation. -/
theorem State.chain_renew (c : CellIx) (p : Port) (t : Tag) (v : Word) (o : Option Port) (s : State) :
    (s.renew p t v o).chain c =
      (s.chain c).map (fun e =>
        if e.isOf p t then { e with lastValue := v, lastOwner := o, lastFlags := compareFlags v e.op.cmp } else e) := by
  simp only [State.chain, State.renew, List.filter_map]
  congr 1
  refine List.filter_congr (fun e _ => ?_)
  simp only [Function.comp_apply]
  split <;> rfl

theorem State.evalParked_chain (c : CellIx) (e : ParkEntry) (s : State) :
    ((s.evalParked e).state.chain c).length ≤ (s.chain c).length := by
  obtain ⟨-, eval⟩ | ⟨v, o, r, -, ⟨-, eval⟩ | ⟨-, -, eval⟩ | ⟨-, -, eval⟩⟩ := s.evalParked_cases e
  · rw [eval]
  · rw [eval, State.chain_renew, List.length_map]
  · rw [eval]
    exact s.chain_unpark_length c e.port e.tag
  · rw [eval, State.chain, State.putCell_park]
    exact s.chain_unpark_length c e.port e.tag

theorem cascadePass_chain (c : CellIx) (l : List ParkEntry) (s : State) :
    ((cascadePass l s).state.chain c).length ≤ (s.chain c).length := by
  induction l generalizing s with
  | nil => exact le_rfl
  | cons e rest ih => exact (ih _).trans (s.evalParked_chain c e)

/-- A pass over entries that are still in the chain shortens it when it changes the cell. -/
theorem cascadePass_shorter {c : CellIx} {l : List ParkEntry} {s : State}
    (inChain : ∀ e ∈ l, ∃ x ∈ s.chain c, x.isOf e.port e.tag = true) (changed : (cascadePass l s).changed = true) :
    ((cascadePass l s).state.chain c).length < (s.chain c).length := by
  induction l generalizing s with
  | nil => cases changed
  | cons e rest ih =>
    have later := cascadePass_chain c rest (s.evalParked e).state
    obtain ⟨x, hx, key⟩ := inChain e List.mem_cons_self
    have shorter := State.chain_unpark_shorter hx key
    have onward (t : State) (eval : s.evalParked e = { state := t, answers := [], changed := false })
        (keys : ∀ e ∈ rest, ∃ x ∈ t.chain c, x.isOf e.port e.tag = true) :
        ((cascadePass (e :: rest) s).state.chain c).length < (t.chain c).length := by
      have more : (cascadePass rest t).changed = true := by
        simpa only [cascadePass, eval, Bool.false_or] using changed
      simpa only [cascadePass, eval] using ih keys more
    obtain ⟨-, eval⟩ | ⟨v, o, r, -, ⟨-, eval⟩ | ⟨-, -, eval⟩ | ⟨-, -, eval⟩⟩ := s.evalParked_cases e
    · exact onward s eval (fun y hy => inChain y (List.mem_cons_of_mem _ hy))
    · have longer := onward _ eval (fun y hy => ?_)
      · rwa [State.chain_renew, List.length_map] at longer
      · obtain ⟨z, hz, same⟩ := inChain y (List.mem_cons_of_mem _ hy)
        rw [State.chain_renew]
        refine ⟨_, List.mem_map_of_mem hz, ?_⟩
        split <;> exact same
    · rw [eval] at later
      simp only [cascadePass, eval]
      exact later.trans_lt shorter
    · rw [eval] at later
      simp only [State.chain, State.putCell_park] at later
      simp only [cascadePass, eval]
      exact later.trans_lt shorter

theorem expireInCascade_park (c : CellIx) (n : Nat) (s : State) : (expireInCascade c n s).park.Sublist s.park := by
  induction n generalizing s with
  | zero => exact List.Sublist.refl _
  | succ n ih =>
    obtain same | same | ⟨m, x, number, -, ended⟩ := expireInCascade_cases c (n + 1) s
    · rw [same]
    · rw [same]
    · cases number
      rw [ended]
      refine (ih _).trans ?_
      rw [State.endParked, State.answerParked, State.replyUp_frame]
      exact List.filter_sublist

theorem cascadeSteps_end {c : CellIx} (n : Nat) {x : Evaluated}
    (few : x.changed = true → (x.state.chain c).length < n) : (cascadeSteps c n x).changed = false := by
  induction n generalizing x with
  | zero => exact Bool.eq_false_iff.2 (fun changed => absurd (few changed) (Nat.not_lt_zero _))
  | succ n ih =>
    cases changed : x.changed with
    | false => rw [cascadeSteps_ended c (n + 1) changed, changed]
    | true =>
      refine ih (x := cascadeStep c x) (fun more => ?_)
      rw [cascadeStep, if_pos changed] at more ⊢
      have shorter := cascadePass_shorter (c := c) (l := x.state.chain c) (s := x.state)
        (fun e he => ⟨e, he, ParkEntry.isOf_iff.2 ⟨rfl, rfl⟩⟩) more
      have expired := ((expireInCascade_park c ((cascadePass (x.state.chain c) x.state).state.overdue c).length
        (cascadePass (x.state.chain c) x.state).state).filter (fun e => e.cell == c)).length_le
      have before := few changed
      exact lt_of_le_of_lt expired (lt_of_lt_of_le shorter (Nat.lt_succ_iff.1 before))

/-- A cascade that goes on to its end. -/
theorem Evaluated.runOut_to {c : CellIx} {s : State} {x : Evaluated} (lives : x.state.Lives c)
    (before : CascadeTo c s x.state x.answers x.changed) :
    CascadeRuns c s (x.runOut c).state (x.runOut c).answers := by
  have ended : (x.runOut c).changed = false := cascadeSteps_end _ (fun _ => Nat.lt_succ_self _)
  have runs := (cascadeSteps_to ((x.state.chain c).length + 1) lives before).2
  change CascadeTo c s (x.runOut c).state (x.runOut c).answers (x.runOut c).changed at runs
  rwa [ended] at runs

theorem State.cascade_runs {c : CellIx} {s : State} (lives : s.Lives c) : CascadeRuns c s (s.cascade c).1 (s.cascade c).2 :=
  Evaluated.runOut_to (x := { state := s, answers := [], changed := true }) lives .opened

/-! ### An access that changed its cell ends (R90, R166) -/

theorem State.closeAccess_eq (b : Bank) (a : Access) (x : Evaluated) :
    State.closeAccess b a x = State.closedBy b a x.answers x.state := by
  obtain ⟨p, t, c, w, n⟩ := a
  cases w with
  | recovery policy default => cases policy <;> rfl
  | operate | groupRead | setRecovery | watch | groupWrite => rfl

theorem State.runAccess_changing {b : Bank} {a : Access} {s u : State} {opening : List (Port × Response)}
    (unchanging : State → State) (opens : Opens a s u opening) :
    s.runAccess b a unchanging = State.closedBy b a (opening ++ (u.cascade a.cell).2) (u.cascade a.cell).1 := by
  obtain ⟨state, answers⟩ := Evaluated.runOut_opening a.cell u opening
  rw [State.runAccess, opens.openAccess]
  simp only [State.closeAccess_eq, state, answers]

/-- Settles O35: the cascade makes the manual's passes to their end, and what follows it is the access's end. -/
theorem changedCellsRunTheirCascade : Obligations.ChangedCellsRunTheirCascade := by
  unfold Obligations.ChangedCellsRunTheirCascade
  refine ⟨fun c s lives => State.cascade_runs lives, fun b a s u opening h opens => ⟨fun op work => ?_,
    fun policy default work => ?_⟩⟩
  · obtain ⟨tag, tagged⟩ : ∃ tag, a.tag = some tag := by
      cases opens with
      | executes _ tagged => exact ⟨_, tagged⟩
      | creates _ tagged => exact ⟨_, tagged⟩
      | recovers other =>
        rw [work] at other
        cases other
    rw [exec_operateAccess h tagged work, State.runAccess_changing _ opens]
  · rw [exec_recoveryAccess h work, State.runAccess_changing _ opens]

/-- A recovery access that acted on a cell with no watch and made no response: it is counted, and the walk goes on. -/
theorem State.closedBy_recovery {b : Bank} {a : Access} {policy : LossPolicy} {default : Option Word} {u : State}
    (work : a.work = .recovery policy default) (unwatched : ∀ w ∈ u.watches, w.cell ≠ a.cell) :
    State.closedBy b a [] u =
      State.finishAccess b
        (State.walk a.port
          { u with
            teardown := u.teardown.set a.port
              ((u.teardown.get a.port).map (fun rec =>
                { rec with
                  restored := if policy = .restore then rec.restored + 1 else rec.restored
                  released := if policy = .release then rec.released + 1 else rec.released })) }) := by
  have watched : (State.handAll [] u).evalWatches a.cell = u := State.evalWatches_none unwatched
  simp only [State.closedBy, watched, work]

/-- Settles O44: the recovery access opens with the release of the cell when its port owns it, and leaves it otherwise. -/
theorem recoveryAccessReleasesTheCell : Obligations.RecoveryAccessReleasesTheCell := by
  unfold Obligations.RecoveryAccessReleasesTheCell
  intro b s p c policy default n h policies
  rw [exec_recoveryAccess h rfl]
  refine ⟨fun v r live unparked unwatched => congrArg _ ?_, fun other => congrArg _ (State.runAccess_unchanging _ ?_)⟩
  · have opens := Opens.recovers (s := s)
      (a := { port := p, tag := none, cell := c, work := .recovery policy default, bypass := n }) rfl live
    have owner : (s.readCell c).owner = some p := by rw [live]; rfl
    rw [← State.putCell_live, State.putCell_givenUp owner rfl] at opens
    rw [State.runAccess_changing _ opens, State.cascade_empty (by exact State.chain_none unparked), List.append_nil,
      State.closedBy_recovery rfl (by exact unwatched)]
    simp only [Four.set_set, Four.get_set_same, Option.map_map]
    rfl
  · simp only [State.openAccess]
    cases read : s.readCell c with
    | void | lost => rfl
    | live v o r =>
      rw [read] at other
      exact if_neg other

end Sys2Proof.Machine

namespace Sys2Proof.Machine

/-! ### What leaves the cells, the stamp lists and the Region Table as they are

Responses, events, bank queues, votes, teardown records and the decisions touch none of them. -/

/-- The cells, the stamp lists and the Region Table stay, and so does RESETn. -/
structure SameStore (s t : State) : Prop where
  cells : t.cells = s.cells
  stamps : t.stamps = s.stamps
  table : t.table = s.table
  resetHigh : t.resetHigh = s.resetHigh

theorem SameStore.rfl' (s : State) : SameStore s s := ⟨rfl, rfl, rfl, rfl⟩

theorem SameStore.trans {s t u : State} (h : SameStore s t) (k : SameStore t u) : SameStore s u :=
  ⟨k.cells.trans h.cells, k.stamps.trans h.stamps, k.table.trans h.table,
    k.resetHigh.trans h.resetHigh⟩

theorem SameStore.lives {s t : State} {c : CellIx} (h : SameStore s t) (lives : s.Lives c) : t.Lives c := by
  obtain ⟨v, o, r, read⟩ := lives
  exact ⟨v, o, r, by rw [State.readCell, h.cells]; exact read⟩

theorem SameStore.foldl {α : Type} {f : State → α → State} (one : ∀ t x, SameStore t (f t x)) (l : List α) (s : State) :
    SameStore s (l.foldl f s) := by
  induction l generalizing s with
  | nil => exact .rfl' s
  | cons x rest ih => exact (one s x).trans (ih _)

theorem SameStore.replyUp (p : Port) (kind : Byte) (t : Tag) (body : RespBody) (s : State) :
    SameStore s (s.replyUp p kind t body) := by
  rw [State.replyUp_frame]
  exact ⟨rfl, rfl, rfl, rfl⟩

theorem SameStore.raise (p : Port) (e : Event) (s : State) : SameStore s (s.raise p e) := by
  rw [State.raise_frame]
  exact ⟨rfl, rfl, rfl, rfl⟩

theorem SameStore.raiseAll (e : Event) (s : State) : SameStore s (s.raiseAll e) := .foldl (fun t p => .raise p e t) _ s

theorem SameStore.raiseOthers (p : Port) (e : Event) (s : State) : SameStore s (s.raiseOthers p e) := by
  rw [State.raiseOthers_frame]
  exact ⟨rfl, rfl, rfl, rfl⟩

theorem SameStore.replyHeld (kind : Byte) (body : RespBody) (held : List (Port × Tag)) (s : State) :
    SameStore s (s.replyHeld kind body held) := 
  .foldl (f := fun t (x : Port × Tag) => t.reply x.1 kind x.2 body) (fun _ _ => ⟨rfl, rfl, rfl, rfl⟩) held s

theorem SameStore.enqueue (a : Access) (s : State) : SameStore s (s.enqueue a) := by
  rw [State.enqueue_frame]
  exact ⟨rfl, rfl, rfl, rfl⟩

theorem SameStore.endAtBank (b : Bank) (s : State) : SameStore s (s.endAtBank b) := by
  rw [State.endAtBank_frame]
  exact ⟨rfl, rfl, rfl, rfl⟩

theorem SameStore.testRefreshStart (s : State) : SameStore s s.testRefreshStart := by
  unfold State.testRefreshStart
  split <;> exact ⟨rfl, rfl, rfl, rfl⟩

theorem SameStore.testPlacingStart (s : State) : SameStore s s.testPlacingStart := by
  unfold State.testPlacingStart
  split <;> exact ⟨rfl, rfl, rfl, rfl⟩

theorem SameStore.testHeld (s : State) : SameStore s s.testHeld := (SameStore.testRefreshStart s).trans (.testPlacingStart _)

theorem SameStore.placeHold (s : State) : SameStore s s.placeHold :=
  (show SameStore s s.holdBanks from ⟨rfl, rfl, rfl, rfl⟩).trans (.testHeld s.holdBanks)

theorem SameStore.testOpportunity (s : State) : SameStore s s.testOpportunity := by
  unfold State.testOpportunity
  split
  · exact .placeHold s
  · exact .rfl' s

theorem SameStore.answerCommits (body : RespBody) (s : State) : SameStore s (s.answerCommits body) :=
  (show SameStore s (s.modConfig (fun k => { k with commits := Four.all none, heldCommits := [] })) from
    ⟨rfl, rfl, rfl, rfl⟩).trans (.replyHeld _ _ _ _)

theorem SameStore.testRun (s : State) : SameStore s s.testRun := by
  unfold State.testRun
  split
  · exact ((show SameStore s (s.modConfig (fun k => { k with state := .run })) from ⟨rfl, rfl, rfl, rfl⟩).trans
      (.answerCommits _ _)).trans (.raiseAll _ _)
  · exact .rfl' s

theorem SameStore.decideCommit (s : State) : SameStore s s.decideCommit := by
  unfold State.decideCommit
  split
  · exact .answerCommits _ s
  · exact (show SameStore s (s.modConfig (fun k => { k with state := .committing })) from ⟨rfl, rfl, rfl, rfl⟩).trans (.testRun _)

theorem SameStore.withdrawAll (s : State) : SameStore s s.withdrawAll :=
  (show SameStore s { s with park := [] } from ⟨rfl, rfl, rfl, rfl⟩).trans (.foldl (fun _ _ => .replyUp _ _ _ _ _) _ _)

theorem SameStore.answerReopens (s : State) : SameStore s s.answerReopens :=
  (show SameStore s (s.modConfig (fun k => { k with heldReopens := [] })) from ⟨rfl, rfl, rfl, rfl⟩).trans (.replyHeld _ _ _ _)

theorem SameStore.endDrain (s : State) : SameStore s s.endDrain := by
  have cleared : SameStore s.withdrawAll
      ((State.modConfig (fun k => { k with state := .setup, reopenVotes := Four.all false })
        { s.withdrawAll with watches := [] }).modRefresh (fun r => { r with votes := Four.all false })) :=
    ⟨rfl, rfl, rfl, rfl⟩
  exact (((SameStore.withdrawAll s).trans cleared).trans (.answerReopens _)).trans (.raiseAll _ _)

theorem SameStore.testDrain (s : State) : SameStore s s.testDrain := by
  unfold State.testDrain
  split
  · exact .endDrain s
  · exact .rfl' s

theorem SameStore.testQuorums (s : State) : SameStore s s.testQuorums := by
  unfold State.testQuorums
  split
  · split
    · exact .decideCommit s
    · exact .rfl' s
  · split
    · exact (show SameStore s (s.modConfig (fun k => { k with state := .draining })) from ⟨rfl, rfl, rfl, rfl⟩).trans (.testDrain _)
    · exact .rfl' s
  · exact .rfl' s
  · exact .rfl' s

theorem SameStore.testConfig (s : State) : SameStore s s.testConfig := by
  unfold State.testConfig
  split
  · exact .testQuorums s
  · exact .testQuorums s
  · exact .testRun s
  · exact .testDrain s

theorem SameStore.testRetention (s : State) : SameStore s s.testRetention := by
  unfold State.testRetention
  split
  · unfold State.enterRetention
    simp only
    split
    · exact (show SameStore s (s.modRefresh (fun r => { r with power := .entering })) from ⟨rfl, rfl, rfl, rfl⟩).trans (.testHeld _)
    · exact (show SameStore s (s.modRefresh (fun r => { r with power := .entering })) from ⟨rfl, rfl, rfl, rfl⟩).trans
        (.placeHold _)
  · exact .rfl' s

theorem SameStore.joinUp (p : Port) (s : State) : SameStore s (s.joinUp p) :=
  (show SameStore s (s.goUp p) from ⟨rfl, rfl, rfl, rfl⟩).trans (.raiseOthers p _ _)

theorem SameStore.leaveClearing (p : Port) (s : State) : SameStore s (s.leaveClearing p) := by
  unfold State.leaveClearing
  split
  · exact ((show SameStore s (s.modHpu p (fun h => { h with heldJoin := none })) from ⟨rfl, rfl, rfl, rfl⟩).trans (.joinUp p _)).trans
      ⟨rfl, rfl, rfl, rfl⟩
  · exact ⟨rfl, rfl, rfl, rfl⟩

theorem SameStore.completeTeardown (p : Port) (s : State) : SameStore s (s.completeTeardown p) := by
  unfold State.completeTeardown
  split
  · exact .rfl' s
  · have dropped (t : State) : SameStore t { t with teardown := t.teardown.set p none } := ⟨rfl, rfl, rfl, rfl⟩
    exact ((((SameStore.raiseOthers p _ s).trans (dropped _)).trans (.leaveClearing p _)).trans (.testQuorums _)).trans
      (.testRetention _)

theorem SameStore.walkCells (p : Port) (l : List CellIx) (s : State) : SameStore s (walkCells p l s) := by
  induction l generalizing s with
  | nil => exact .completeTeardown p s
  | cons c rest ih =>
    unfold Machine.walkCells
    have marked (f : TeardownRec → TeardownRec) : SameStore s (s.modTeardown p f) := ⟨rfl, rfl, rfl, rfl⟩
    split
    · exact (marked _).trans (ih _)
    · exact (marked _).trans (.enqueue _ _)
    · exact (marked _).trans (.enqueue _ _)

theorem SameStore.walk (p : Port) (s : State) : SameStore s (s.walk p) :=
  (show SameStore s (s.modTeardown p (fun r => { r with phase := .walking, current := none })) from ⟨rfl, rfl, rfl, rfl⟩).trans
    (.walkCells p _ _)

theorem SameStore.act (a : Act) (s : State) : SameStore s (a.run s) := by
  cases a with
  | walk p =>
    change SameStore s (if s.walkDue p then s.walk p else s)
    split
    · exact .walk p s
    · exact .rfl' s
  | config => exact .testConfig s
  | refresh => exact .testOpportunity s

theorem SameStore.settle (s : State) : SameStore s s.settle := by
  unfold State.settle
  split
  · exact (show SameStore s { s with choices := s.choices + 1 } from ⟨rfl, rfl, rfl, rfl⟩).trans (.foldl (fun t a => .act a t) _ _)
  · exact .foldl (fun t a => .act a t) _ _

theorem SameStore.finishAccess (b : Bank) (s : State) : SameStore s (s.finishAccess b) :=
  ((SameStore.endAtBank b s).trans (show SameStore _ ((s.endAtBank b).noteEnded b) from ⟨rfl, rfl, rfl, rfl⟩)).trans (.settle _)

theorem SameStore.clearPort (p : Port) (reason : LossReason) (s : State) : SameStore s (s.clearPort p reason) := by
  rw [State.clearPort_frame]
  exact ⟨rfl, rfl, rfl, rfl⟩

theorem SameStore.startTeardown (p : Port) (reason : LossReason) (s : State) : SameStore s (s.startTeardown p reason) :=
  (SameStore.clearPort p reason s).trans (.settle _)

theorem SameStore.endParked (e : ParkEntry) (o : OpOutcome) (s : State) : SameStore s (s.endParked e o) :=
  (show SameStore s (s.unpark e.port e.tag) from ⟨rfl, rfl, rfl, rfl⟩).trans (.replyUp _ _ _ _ _)

theorem SameStore.closeAccess (b : Bank) (a : Access) (x : Evaluated) : SameStore x.state (State.closeAccess b a x) := by
  have handed : SameStore x.state ((x.state.handAll x.answers).evalWatches a.cell) := by
    rw [State.evalWatches_frame, State.handAll_frame]
    exact ⟨rfl, rfl, rfl, rfl⟩
  unfold State.closeAccess
  simp only
  split
  · have counted (t : State) (f : TeardownRec → TeardownRec) : SameStore t (t.modTeardown a.port f) := ⟨rfl, rfl, rfl, rfl⟩
    exact ((handed.trans (counted _ _)).trans (.walk _ _)).trans (.finishAccess b _)
  all_goals exact handed.trans (.finishAccess b _)

/-! ### What falls inside accesses in progress (R51, R56, R58) -/

theorem insertByKey_perm {α : Type} (key : α → Nat) (x : α) (l : List α) : (insertByKey key x l).Perm (x :: l) := by
  induction l with
  | nil => exact .refl _
  | cons y rest ih =>
    unfold insertByKey
    split
    · exact .refl _
    · exact (ih.cons y).trans (.swap x y rest)

theorem inKeyOrder_perm {α : Type} (key : α → Nat) (items : List α) : (inKeyOrder key items).Perm items := by
  induction items with
  | nil => exact .refl _
  | cons x rest ih => exact (insertByKey_perm key x _).trans (ih.cons x)

theorem ComeAlong.recount {claimed : CellIx → Prop} {along : List Underway} {s t : State} {m : Nat}
    (comes : ComeAlong claimed along { s with choices := m } t) : ComeAlong claimed along s t := by
  cases comes with
  | ended => exact .ended s _
  | begins _ onRow current cell opens comes later => exact .begins (s := s) _ onRow current cell opens comes later

/-- An access that comes along comes to a point of its cascade. -/
theorem comeTo_comes {b : Bank} {a : Access} {u : State} {opening : List (Port × Response)} (passes entries : Nat)
    (lives : u.Lives a.cell) :
    ∃ next,
      (comeTo b a passes entries { state := u, answers := opening, changed := true }).2.answers = opening ++ next ∧
      CascadeComesTo a.cell u (comeTo b a passes entries { state := u, answers := opening, changed := true }).1 next
        (comeTo b a passes entries { state := u, answers := opening, changed := true }).2.rest
        (comeTo b a passes entries { state := u, answers := opening, changed := true }).2.changed := by
  obtain ⟨still, runs⟩ := cascadeSteps_to (c := a.cell) (s := u) passes (x := { state := u, answers := [], changed := true })
    lives .opened
  unfold comeTo
  rw [cascadeSteps_answers a.cell passes u opening true]
  generalize cascadeSteps a.cell passes { state := u, answers := [], changed := true } = y at still runs ⊢
  obtain ⟨v, made, more⟩ := y
  cases more with
  | false => exact ⟨made, by simp [cascadePass], by simpa [cascadePass] using CascadeComesTo.ended runs⟩
  | true =>
    refine ⟨made ++ (cascadePass ((v.chain a.cell).take entries) v).answers, by simp, ?_⟩
    refine .inPass runs (List.take_append_drop entries _).symm (cascadePass_passes (fun e he => ?_) still)
    exact State.cell_of_mem_chain (List.mem_of_mem_take he)

theorem State.accessing_iff {s : State} {b : Bank} {a : Access} :
    s.accessing b = some a ↔ (∃ row, (s.bank b).state = .accessing row) ∧ (s.bank b).current = some a := by
  unfold State.accessing
  cases (s.bank b).state <;> simp

/-- An access in progress whose cascade goes on: its cell is LIVE and the entries left are parked on it. -/
def Underway.Onward (s : State) (x : Underway) : Prop := s.Lives x.access.cell ∧ ∀ e ∈ x.rest, e.cell = x.access.cell

theorem Opens.lives {a : Access} {s u : State} {made : List (Port × Response)} (opens : Opens a s u made) :
    u.Lives a.cell := by
  cases opens with
  | executes | creates | recovers => exact ⟨_, _, _, State.cellLeft_read _ _ _ _ _⟩

theorem Opens.lives_kept {a : Access} {s u : State} {made : List (Port × Response)} (opens : Opens a s u made) {c : CellIx}
    (lives : s.Lives c) : u.Lives c := by
  cases opens with
  | executes | creates | recovers =>
    rw [← State.putCell_live]
    exact lives.putCell _ _ _ _

theorem cascadeSteps_lives {c d : CellIx} (n : Nat) {x : Evaluated} (lives : x.state.Lives d) :
    (cascadeSteps c n x).state.Lives d := by
  induction n generalizing x with
  | zero => exact lives
  | succ n ih =>
    refine ih (x := cascadeStep c x) ?_
    unfold cascadeStep
    split
    · exact expireInCascade_lives _ (cascadePass_lives _ lives)
    · exact lives

/-- Accesses come along one after the other, as `ComeAlong` tells it. -/
theorem foldl_comeAlong {claimed : CellIx → Prop} {banks : List Bank} {s : State} {acc : List Underway}
    (performing : ∀ b ∈ banks, ∃ a, s.accessing b = some a ∧ claimed a.cell)
    (onward : ∀ x ∈ acc, x.Onward s) :
    ∃ along, (banks.foldl comeAlong (s, acc)).2 = acc ++ along ∧
      ComeAlong claimed along s (banks.foldl comeAlong (s, acc)).1 ∧ (along.map (fun x => x.bank)).Sublist banks ∧
      ∀ x ∈ acc ++ along, x.Onward (banks.foldl comeAlong (s, acc)).1 := by
  induction banks generalizing s acc with
  | nil => exact ⟨[], by simp, .ended s s.choices, .slnil, by simpa using onward⟩
  | cons b rest ih =>
    rw [List.foldl_cons]
    obtain same | ⟨a, y, passes, entries, accessing, opened, along⟩ := comeAlong_cases (s, acc) b
    · rw [same]
      obtain ⟨along, list, comes, sub, still⟩ := ih (s := { s with choices := s.choices + 2 }) (acc := acc)
        (fun d hd => performing d (List.mem_cons_of_mem _ hd)) onward
      exact ⟨along, list, comes.recount, sub.cons b, still⟩
    · rw [along]
      obtain ⟨opens, changed⟩ := State.opens_of_openAccess opened
      obtain ⟨u, opening, more⟩ := y
      cases changed
      obtain ⟨next, answers, comes⟩ := comeTo_comes (b := b) (opening := opening) passes entries opens.lives
      obtain ⟨a', accessing', cell⟩ := performing b List.mem_cons_self
      obtain rfl : a = a' := Option.some.inj (accessing.symm.trans accessing')
      obtain ⟨⟨row, onRow⟩, current⟩ := State.accessing_iff.1 accessing'
      have elsewhere : SameElsewhere s (comeTo b a passes entries { state := u, answers := opening, changed := true }).1 := by
        refine SameElsewhere.trans ?_ (SameElsewhere.comeTo b a passes entries _)
        obtain ⟨r, left⟩ := State.openAccess_state opened
        rw [show u = _ from left]
        exact (show SameElsewhere s { s with choices := s.choices + 2 } from
          ⟨rfl, rfl, rfl, rfl, rfl, rfl, rfl, rfl, rfl⟩).trans (.putCell _ _ _)
      have kept {c : CellIx} (lives : s.Lives c) :
          (comeTo b a passes entries { state := u, answers := opening, changed := true }).1.Lives c :=
        cascadePass_lives _ (cascadeSteps_lives _ (opens.lives_kept lives))
      have here : (comeTo b a passes entries { state := u, answers := opening, changed := true }).2.Onward
          (comeTo b a passes entries { state := u, answers := opening, changed := true }).1 := by
        refine ⟨cascadePass_lives _ (cascadeSteps_lives _ opens.lives), fun e he => ?_⟩
        have chained := List.mem_of_mem_drop he
        split at chained
        · exact State.cell_of_mem_chain chained
        · cases chained
      obtain ⟨others, list, later, sub, still⟩ := ih
        (s := (comeTo b a passes entries { state := u, answers := opening, changed := true }).1)
        (acc := acc ++ [(comeTo b a passes entries { state := u, answers := opening, changed := true }).2])
        (fun d hd => by
          obtain ⟨x, accessing, cell⟩ := performing d (List.mem_cons_of_mem _ hd)
          refine ⟨x, ?_, cell⟩
          rw [State.accessing_iff] at accessing ⊢
          rwa [State.bank, elsewhere.banks])
        (fun x hx => by
          obtain old | new := List.mem_append.1 hx
          · obtain ⟨lives, cells⟩ := onward x old
            exact ⟨kept lives, cells⟩
          · rw [List.mem_singleton.1 new]
            exact here)
      refine ⟨(comeTo b a passes entries { state := u, answers := opening, changed := true }).2 :: others, ?_, ?_, ?_, ?_⟩
      · rw [list, List.append_assoc]
        rfl
      · have began := ComeAlong.begins (s.choices + 2) onRow current cell opens comes later
        rw [← answers] at began
        exact began
      · exact sub.cons_cons b
      · rw [List.append_assoc] at still
        exact still

/-- An access in progress goes on to its end. -/
theorem goOn_goes {s : State} {x : Underway} (onward : x.Onward s) :
    ∃ u later, CascadeGoesOn x.access.cell s x.rest x.changed u later ∧
      goOn s x = State.closedBy x.bank x.access (x.answers ++ later) u := by
  obtain ⟨lives, cells⟩ := onward
  have parked : x.rest.filter (fun e => (s.parkedOf e.port e.tag).isSome) =
      x.rest.filter (fun e => s.park.any (fun y => y.port == e.port && y.tag == e.tag)) :=
    List.filter_congr (fun e _ => by
      rw [Bool.eq_iff_iff, State.parkedOf, List.find?_isSome, List.any_eq_true]
      rfl)
  have pass := cascadePass_passes (c := x.access.cell)
    (l := x.rest.filter (fun e => s.park.any (fun y => y.port == e.port && y.tag == e.tag))) (s := s)
    (fun e he => cells e (List.mem_of_mem_filter he)) lives
  have still := cascadePass_lives (c := x.access.cell)
    (x.rest.filter (fun e => s.park.any (fun y => y.port == e.port && y.tag == e.tag))) lives
  unfold goOn
  simp only [parked, State.closeAccess_eq]
  generalize cascadePass (x.rest.filter (fun e => s.park.any (fun y => y.port == e.port && y.tag == e.tag))) s = y
    at pass still ⊢
  obtain ⟨t, made, more⟩ := y
  have after := expireInCascade_expires x.access.cell (t.overdue x.access.cell).length t
  have lives' := expireInCascade_lives (c := x.access.cell) (t.overdue x.access.cell).length still
  simp only
  cases goes : x.changed || more with
  | false =>
    obtain ⟨unchanged, rfl⟩ := Bool.or_eq_false_iff.1 goes
    refine ⟨_, made, .lastPass pass unchanged after, ?_⟩
    rw [Evaluated.runOut, cascadeSteps_ended _ _ rfl]
  | true =>
    obtain ⟨state, answers⟩ := Evaluated.runOut_opening x.access.cell
      (expireInCascade x.access.cell (t.overdue x.access.cell).length t) (x.answers ++ made)
    refine ⟨_, _, .further pass (Bool.or_eq_true_iff.1 goes) after (State.cascade_runs lives'), ?_⟩
    rw [state, answers, List.append_assoc]

theorem goOn_lives {s : State} {x : Underway} {c : CellIx} (lives : s.Lives c) : (goOn s x).Lives c := by
  unfold goOn
  exact (SameStore.closeAccess _ _ _).lives
    (cascadeSteps_lives _ (expireInCascade_lives _ (cascadePass_lives _ lives)))

theorem foldl_goOn {order : List Underway} {s : State} (onward : ∀ x ∈ order, x.Onward s) :
    GoOn order s (order.foldl goOn s) := by
  induction order generalizing s with
  | nil => exact .ended s
  | cons x rest ih =>
    obtain ⟨u, later, goes, ends⟩ := goOn_goes (onward x List.mem_cons_self)
    refine .goes goes ?_
    rw [← ends]
    refine ih (fun y hy => ?_)
    obtain ⟨lives, cells⟩ := onward y (List.mem_cons_of_mem _ hy)
    exact ⟨goOn_lives lives, cells⟩

theorem allFour_nodup : allFour.Nodup := by decide

theorem SamePorts.comeAlong_foldl (banks : List Bank) (x : State × List Underway) :
    SamePorts x.1 (banks.foldl Machine.comeAlong x).1 := by
  induction banks generalizing x with
  | nil => exact .rfl' _
  | cons b rest ih => exact (SamePorts.comeAlong x b).trans (ih _)

/-- A happening that claims entries, taken before, inside or after the accesses in progress that change their cells. -/
theorem State.inside_takes {hit : ParkEntry → Bool} {claimed : ParkEntry → Prop} {happening taken : State → State} (s : State)
    (claims : ∀ e, hit e = true ↔ claimed e) (same : ∀ mid, SamePorts s mid → happening mid = taken mid)
    (store : ∀ mid, SameStore mid (happening mid)) :
    ∃ along order mid,
      ComeAlong (fun c => ∃ e ∈ s.park, claimed e ∧ e.cell = c) along s mid ∧
      (along.map (fun x => x.bank)).Nodup ∧ order.Perm along ∧ GoOn order (taken mid) (s.inside hit happening) := by
  unfold State.inside
  simp only
  split
  · refine ⟨[], [], s, .ended s s.choices, .nil, .refl _, ?_⟩
    rw [same s (.rfl' s)]
    exact .ended _
  · have performing : ∀ b ∈ inKeyOrder (fun b => Config.orderKey s.choices b.val) (allFour.filter (s.inAccess hit)),
        ∃ a, ({ s with choices := s.choices + 2 } : State).accessing b = some a ∧
          ∃ e ∈ s.park, claimed e ∧ e.cell = a.cell := by
      intro b hb
      have inAccess := (List.mem_filter.1 (mem_inKeyOrder.1 hb)).2
      unfold State.inAccess at inAccess
      split at inAccess
      · rename_i a accessing
        obtain ⟨chained, -⟩ := Bool.and_eq_true_iff.1 inAccess
        obtain ⟨e, he, hits⟩ := List.any_eq_true.1 chained
        exact ⟨a, accessing, e, List.mem_of_mem_filter he, (claims e).1 hits, State.cell_of_mem_chain he⟩
      · cases inAccess
    obtain ⟨along, list, comes, sub, onward⟩ := foldl_comeAlong
      (claimed := fun c => ∃ e ∈ s.park, claimed e ∧ e.cell = c) (s := { s with choices := s.choices + 2 }) (acc := []) performing
      (fun _ h => absurd h List.not_mem_nil)
    have ports : SamePorts s ((inKeyOrder (fun b => Config.orderKey s.choices b.val)
        (allFour.filter (s.inAccess hit))).foldl comeAlong ({ s with choices := s.choices + 2 }, [])).1 := by
      exact (SamePorts.of_hpus (t := { s with choices := s.choices + 2 }) rfl).trans (SamePorts.comeAlong_foldl _ _)
    rw [List.nil_append] at list onward
    rw [list]
    refine ⟨along, inKeyOrder (fun x => Config.orderKey (s.choices + 1) x.bank.val) along, _, comes.recount, ?_,
      inKeyOrder_perm _ _, ?_⟩
    · exact sub.nodup ((inKeyOrder_perm _ _).nodup_iff.2 (allFour_nodup.filter _))
    · rw [← same _ ports]
      refine foldl_goOn (fun x hx => ?_)
      obtain ⟨lives, cells⟩ := onward x (mem_inKeyOrder.1 hx)
      exact ⟨(store _).lives lives, cells⟩

theorem State.isUp_iff {s : State} {p : Port} : s.isUp p = true ↔ (s.hpu p).port = .up := by
  simp [State.isUp]

theorem State.admitted_up {p : Port} {s : State} (up : (s.hpu p).port = .up) (keep : Bool) (f : Frame) :
    ((s.admitted keep p f).hpu p).port = .up := by
  rw [State.hpu_admitted_same]
  exact (Hpu.validFrame_port _).trans (by simp [up])

theorem State.handed_handed (p : Port) (rs more : List Response) (s : State) :
    (s.handed p rs).handed p more = s.handed p (rs ++ more) := by
  simp [State.handed, State.hpu]

theorem State.handed_link (p : Port) (rs : List Response) (s : State) : ((s.handed p rs).hpu p).link = (s.hpu p).link := by
  simp [State.handed, State.hpu]

/-- An entry of an UP port ends: it leaves the list and its outcome joins its port's send list. -/
theorem State.endParked_up {e : ParkEntry} {s : State} (up : (s.hpu e.port).port = .up)
    (alive : (s.hpu e.port).link = .alive) (o : OpOutcome) :
    s.endParked e o = State.handed e.port
      [{ kind := 0x81, tag := e.tag,
         body := .operate
           { outcome := o, old := e.lastValue, new := e.lastValue, owner := e.lastOwner, flags := e.lastFlags,
             wrapped := false } }]
      (s.without e) :=
  (if_pos (c := (s.unpark e.port e.tag).isUp e.port = true) ((State.isUp_iff (s := s)).2 up)).trans
    (State.reply_alive (s := s.unpark e.port e.tag) _ _ _ alive)

theorem takeCancel_alive {p : Port} {f : Frame} {s : State} (up : (s.hpu p).port = .up) (alive : (s.hpu p).link = .alive) :
    takeCancel p f s =
      match s.park.find? (fun x => x.port == p && x.tag == f.targetTag) with
      | some x =>
        State.handed p
          [{ kind := 0x81, tag := x.tag,
             body := .operate
               { outcome := .cancelled, old := x.lastValue, new := x.lastValue, owner := x.lastOwner, flags := x.lastFlags,
                 wrapped := false } },
            { kind := 0x84, tag := f.tag, body := .ok }]
          (s.without x)
      | none => s.handed p [{ kind := 0x84, tag := f.tag, body := .refused .notFound }] := by
  unfold takeCancel
  change (match s.park.find? (fun x => x.port == p && x.tag == f.targetTag) with | some e => _ | none => _) = _
  split
  · rename_i e found
    have ofPort : e.port = p := (ParkEntry.isOf_iff.1 (List.find?_some found)).1
    subst ofPort
    rw [State.endParked_up up alive]
    exact (State.reply_alive (s := State.handed e.port _ (s.without e)) _ _ _ ((State.handed_link _ _ _).trans alive)).trans
      (State.handed_handed _ _ _ _)
  · rename_i found
    exact State.reply_alive _ _ _ alive

/-- Settles O36: each access in progress comes along to the point the free values give, the claim is taken, and they go on. -/
theorem claimsFallInsideAnAccess : Obligations.ClaimsFallInsideAnAccess := by
  unfold Obligations.ClaimsFallInsideAnAccess
  refine ⟨fun p f s h => ?_, fun p s up => ⟨fun f h => ?_, fun high alive => ?_⟩⟩
  · obtain ⟨along, order, mid, comes, once, perm, goes⟩ := State.inside_takes (hit := ParkEntry.isOf p f.targetTag)
      (claimed := fun e => e.port = p ∧ e.tag = f.targetTag) (happening := takeCancel p f) (s.admitted false p f)
      (fun e => ParkEntry.isOf_iff)
      (fun mid same => takeCancel_alive
        ((same p).1.trans (State.admitted_up h.up false f))
        ((same p).2.trans (s.admitted_alive false p f)))
      (fun mid => by
        unfold takeCancel
        split
        · exact (SameStore.endParked _ _ _).trans ⟨rfl, rfl, rfl, rfl⟩
        · exact ⟨rfl, rfl, rfl, rfl⟩)
    exact ⟨along, order, mid, _, comes, once, perm, goes, exec_accepted h rfl rfl rfl⟩
  · obtain ⟨along, order, mid, comes, once, perm, goes⟩ := State.inside_takes (hit := fun e => e.port == p)
      (claimed := fun e => e.port = p) (happening := fun u => (State.answer .leave p f .ok u).startTeardown p .leave)
      (s.admitted false p f) (fun e => by simp)
      (fun mid same => congrArg (State.startTeardown p .leave)
        (State.answer_alive ((same p).2.trans (s.admitted_alive false p f))))
      (fun mid => (show SameStore mid (mid.answer .leave p f .ok) from ⟨rfl, rfl, rfl, rfl⟩).trans (.startTeardown _ _ _))
    exact ⟨along, order, mid, _, comes, once, perm, goes, exec_accepted h rfl rfl rfl⟩
  · obtain ⟨along, order, mid, comes, once, perm, goes⟩ := State.inside_takes (hit := fun e => e.port == p)
      (claimed := fun e => e.port = p) (happening := fun u => (u.modHpu p Hpu.loseLink).startTeardown p .link)
      s (fun e => by simp) (fun mid _ => rfl)
      (fun mid => (show SameStore mid (mid.modHpu p Hpu.loseLink) from ⟨rfl, rfl, rfl, rfl⟩).trans (.startTeardown _ _ _))
    refine ⟨along, order, mid, _, comes, once, perm, goes, ?_⟩
    change execLinkLoss p s = _
    unfold execLinkLoss
    rw [whileReleased_high high, if_pos (by simp [State.isAlive, alive]), State.loseLink, up]
    rfl

end Sys2Proof.Machine

namespace Sys2Proof.Machine

/-! ### CANCEL, PARK_EXPIRY and UNWATCH (R52, R55, R72) -/

/-- The one entry of a port and a tag: it is found, and what is left without it closes up in order (R45). -/
theorem parked_once {before after : List ParkEntry} {e : ParkEntry}
    (others : ∀ x ∈ before ++ after, ¬(x.port = e.port ∧ x.tag = e.tag)) :
    (before ++ e :: after).find? (fun x => x.port == e.port && x.tag == e.tag) = some e ∧
      (before ++ e :: after).filter (fun x => !(x.port == e.port && x.tag == e.tag)) = before ++ after := by
  have other {x : ParkEntry} (hx : x ∈ before ++ after) : (x.port == e.port && x.tag == e.tag) = false := by
    simpa using others x hx
  have before' (x : ParkEntry) (hx : x ∈ before) := other (List.mem_append_left after hx)
  have after' (x : ParkEntry) (hx : x ∈ after) := other (List.mem_append_right before hx)
  constructor
  · rw [List.find?_append, List.find?_eq_none.2 (fun x hx => by simp [before' x hx])]
    simp
  · rw [List.filter_append, List.filter_cons_of_neg (by simp),
      List.filter_eq_self.2 (fun x hx => by simp [before' x hx]), List.filter_eq_self.2 (fun x hx => by simp [after' x hx])]

/-- No access in progress changes the cell of an entry claimed, so the claim is taken as it is (R57). -/
theorem State.inAccess_rest {hit : ParkEntry → Bool} {s u : State} (rest : ∀ x ∈ u.park, hit x = true → s.NotInChange x)
    (banks : u.banks = s.banks) (cells : u.cells = s.cells) (stamps : u.stamps = s.stamps) (b : Bank) :
    u.inAccess hit b = false := by
  unfold State.inAccess
  split
  · rename_i a accessing
    refine Bool.eq_false_iff.2 (fun both => ?_)
    obtain ⟨chained, opened⟩ := Bool.and_eq_true_iff.1 both
    obtain ⟨x, inChain, hits⟩ := List.any_eq_true.1 chained
    obtain ⟨⟨row, onRow⟩, current⟩ := State.accessing_iff.1 accessing
    rw [State.openAccess_isSome cells stamps] at opened
    obtain ⟨y, opened⟩ := Option.isSome_iff_exists.1 opened
    rw [State.bank, banks] at onRow current
    exact rest x (List.mem_of_mem_filter inChain) hits b row a _ _ onRow current (State.cell_of_mem_chain inChain).symm
      (State.opens_of_openAccess opened).1
  · rfl

theorem serveCancel_found {p : Port} {f : Frame} {s : State} (h : Accepted .cancel p f s) {before after : List ParkEntry}
    {e : ParkEntry} (park : s.park = before ++ e :: after)
    (others : ∀ x ∈ before ++ after, ¬(x.port = p ∧ x.tag = f.targetTag)) (port : e.port = p) (tag : e.tag = f.targetTag)
    (rest : s.NotInChange e) :
    serveCancel p f (s.admitted false p f) =
      State.handed p
        [{ kind := 0x81, tag := e.tag,
           body := .operate
             { outcome := .cancelled, old := e.lastValue, new := e.lastValue, owner := e.lastOwner, flags := e.lastFlags,
               wrapped := false } },
          { kind := 0x84, tag := f.tag, body := .ok }]
        { s.admitted false p f with park := before ++ after } := by
  subst port
  rw [← tag] at others
  obtain ⟨found, left⟩ := parked_once others
  have only : ∀ x ∈ (s.admitted false e.port f).park, ParkEntry.isOf e.port f.targetTag x = true → s.NotInChange x := by
    intro x hx hits
    have member : x ∈ before ++ e :: after := park ▸ hx
    rw [List.mem_append, List.mem_cons] at member
    rw [← tag, ParkEntry.isOf_iff] at hits
    obtain old | rfl | young := member
    · exact absurd hits (others x (List.mem_append_left _ old))
    · exact rest
    · exact absurd hits (others x (List.mem_append_right _ young))
  have found' : (s.admitted false e.port f).park.find? (fun x => x.port == e.port && x.tag == f.targetTag) = some e := by
    rw [← tag, ← found, ← park]
    rfl
  rw [serveCancel, State.inside_none (State.inAccess_rest only rfl rfl rfl),
    takeCancel_alive (State.admitted_up h.up _ _) (State.admitted_alive _ _ _ _), found']
  simp only [State.without]
  rw [show (s.admitted false e.port f).park = before ++ e :: after from park, left]

theorem serveCancel_none {p : Port} {f : Frame} {s : State}
    (none : ∀ x ∈ s.park, ¬(x.port = p ∧ x.tag = f.targetTag)) :
    serveCancel p f (s.admitted false p f) = s.answered .cancel p f (.refused .notFound) := by
  have unclaimed : ∀ x ∈ (s.admitted false p f).park, ParkEntry.isOf p f.targetTag x = false :=
    fun x hx => Bool.eq_false_iff.2 (fun hits => none x hx (ParkEntry.isOf_iff.1 hits))
  have missing : (s.admitted false p f).parkedOf p f.targetTag = Option.none :=
    List.find?_eq_none.2 (fun x hx => by simp [unclaimed x hx])
  rw [serveCancel, State.inside_none (State.inAccess_rest (s := s.admitted false p f)
    (fun x hx hits => absurd hits (by simp [unclaimed x hx])) rfl rfl rfl), takeCancel, missing]
  exact State.answer_alive (State.admitted_alive _ _ _ _)

theorem exec_parkExpiry {p : Port} {t : Tag} {s : State} {e : ParkEntry} (high : s.resetHigh = true)
    (parked : s.parkedOf p t = some e) :
    exec (.parkExpiry p t) s = .next (if e.deadline.isSome then s.endParked e .expired else s) := by
  change execParkExpiry p t s = _
  unfold execParkExpiry
  rw [whileReleased_high high, parked]

/-- The one watch with an id: what is left without it closes up in order (R72). -/
theorem watches_removed {before after : List Watch} {w : Watch} (others : ∀ x ∈ before ++ after, x.id ≠ w.id) :
    (before ++ w :: after).filter (fun x => x.id != w.id) = before ++ after := by
  rw [List.filter_append, List.filter_cons_of_neg (by simp),
    List.filter_eq_self.2 (fun x hx => by simpa using others x (List.mem_append_left _ hx)),
    List.filter_eq_self.2 (fun x hx => by simpa using others x (List.mem_append_right _ hx))]

/-- Settles O15. -/
theorem cancelExpiryAndUnwatchRemoveTheirEntry : Obligations.CancelExpiryAndUnwatchRemoveTheirEntry := by
  unfold Obligations.CancelExpiryAndUnwatchRemoveTheirEntry
  refine ⟨fun p f s h => ⟨fun before e after park others port tag rest => ?_, fun none => ?_⟩,
    fun before after e s high park others => ?_, fun p f s h small => ⟨fun before w after watches others port id => ?_,
    fun none => ?_⟩⟩
  · exact (exec_accepted h rfl rfl rfl).trans (congrArg _ (serveCancel_found h park others port tag rest))
  · exact (exec_accepted h rfl rfl rfl).trans (congrArg _ (serveCancel_none none))
  · obtain ⟨found, left⟩ := parked_once others
    have parked : s.parkedOf e.port e.tag = some e := (congrArg _ park).trans found
    refine ⟨fun d deadline up alive => ?_, fun unlimited => ?_⟩
    · rw [exec_parkExpiry high parked, deadline, Option.isSome_some, if_pos rfl, State.endParked_up up alive, State.without, park, left]
    · rw [exec_parkExpiry high parked, unlimited]
      rfl
  · have fields : fieldsOk .unwatch f = true := decide_eq_true small
    have has : (s.admitted false p f).hasWatch p f.lowByte = true :=
      List.any_eq_true.2 ⟨w, by rw [show (s.admitted false p f).watches = _ from watches]; simp, by
        simp [port, id, Frame.lowByte]⟩
    have removed : (s.admitted false p f).removeWatch f.lowByte =
        { s.admitted false p f with watches := before ++ after } := by
      rw [State.removeWatch, Frame.lowByte, ← id, show (s.admitted false p f).watches = _ from watches, watches_removed others]
    refine (exec_accepted h rfl rfl fields).trans (congrArg _ ?_)
    change serveUnwatch p f (s.admitted false p f) = _
    rw [serveUnwatch, if_pos has, removed]
    exact State.answer_alive (s.admitted_alive false p f)
  · have fields : fieldsOk .unwatch f = true := decide_eq_true small
    have has : ¬(s.admitted false p f).hasWatch p f.lowByte = true := by
      rw [State.hasWatch, List.any_eq_true]
      rintro ⟨x, hx, both⟩
      exact none x hx (by simpa [Frame.lowByte] using both)
    refine (exec_accepted h rfl rfl fields).trans (congrArg _ ?_)
    change serveUnwatch p f (s.admitted false p f) = _
    rw [serveUnwatch, if_neg has]
    exact State.answer_alive (s.admitted_alive false p f)

/-! ### QUIESCE and WAKE (R108, R114) -/

/-- A request that R107 lets through in every power state. -/
theorem exec_wake {p : Port} {f : Frame} {s : State} (ready : Ready .wake p f s) (up : (s.hpu p).port = .up) :
    exec (.wake p f) s = .next (serveWake p f (s.admitted false p f)) := by
  refine exec_served ready ?_
  rw [State.refusal_receiveValid, Hpu.validFrame_up up]
  cases s.refresh.power <;> rfl

/-- Settles O16, by the power state. -/
theorem quiesceAndWakeActOnThePowerState : Obligations.QuiesceAndWakeActOnThePowerState := by
  unfold Obligations.QuiesceAndWakeActOnThePowerState
  refine ⟨fun p f s h run => ?_, fun p f s ready up => ⟨fun active => ?_, fun waiting => ?_, fun retained => ?_⟩⟩
  · refine (exec_accepted h (by simp [configCheck, run]) rfl rfl).trans (congrArg _ ?_)
    exact State.answer_alive (s := (s.admitted true p f).modRefresh (fun r => { r with votes := r.votes.set p true }))
      (s.admitted_alive true p f)
  · rw [exec_wake ready up, serveWake, show (s.admitted false p f).refresh.power = .active from active]
    exact congrArg _ (State.answer_alive (s.admitted_alive false p f))
  · rw [exec_wake ready up, serveWake]
    obtain entering | waking := waiting
    · rw [show (s.admitted false p f).refresh.power = .entering from entering]
      rfl
    · rw [show (s.admitted false p f).refresh.power = .waking from waking]
      rfl
  · rw [exec_wake ready up, serveWake, show (s.admitted false p f).refresh.power = .retained from retained]
    rfl

/-! ### The Region Table's requests (R122 to R126) -/

theorem SamePorts.replyHeld (kind : Byte) (body : RespBody) (held : List (Port × Tag)) (s : State) :
    SamePorts s (s.replyHeld kind body held) := by
  induction held generalizing s with
  | nil => exact .rfl' s
  | cons x rest ih => exact (SamePorts.reply x.1 kind x.2 body s).trans (ih _)

/-- A write of the table that has voided the commits answers its own OK with the generation after it. -/
theorem State.answer_tableWritten {k : Kind} {p : Port} {f : Frame} {s : State} (alive : (s.hpu p).link = .alive)
    (g : RegionTable → RegionTable) :
    (s.tableWritten g).answer k p f (.written (s.tableWritten g).table.generation) =
      (s.tableWritten g).handed p [responseTo k f (.written (s.table.generation + 1))] := by
  have table := (SameStore.answerCommits (.refused .superseded)
    { s with table := { g s.table with generation := s.table.generation + 1 } }).table
  have ports : SamePorts s (s.tableWritten g) :=
    (SamePorts.of_hpus rfl).trans (SamePorts.replyHeld _ _ _ (State.modConfig
      (fun k => { k with commits := Four.all none, heldCommits := [] })
      { s with table := { g s.table with generation := s.table.generation + 1 } }))
  rw [State.answer_alive ((ports p).2.trans alive), show (s.tableWritten g).table = _ from table]

/-- Settles O17. -/
theorem regionTableIsReadAndWritten : Obligations.RegionTableIsReadAndWritten := by
  unfold Obligations.RegionTableIsReadAndWritten
  refine ⟨fun p f s h => ⟨fun e entry small => ?_, fun all => ?_⟩, fun p f s setup => ⟨fun e h small fields => ?_,
    fun x h fields => ?_⟩⟩
  · have ok : fieldsOk .readRegion f = true := decide_eq_true (le_of_lt small)
    refine (exec_accepted h rfl rfl ok).trans (congrArg _ ?_)
    have read : s.table.readAnswer f.lowByte = .region f.lowByte e s.table.generation := by
      rw [RegionTable.readAnswer, if_pos (show f.lowByte < regionCount from small), List.getD_eq_getElem?_getD,
        show s.table.entries[f.lowByte]? = some e from entry, Option.getD_some]
    exact (State.answer_alive (s.admitted_alive false p f)).trans (congrArg (s.answered .readRegion p f) read)
  · have ok : fieldsOk .readRegion f = true := decide_eq_true (le_of_eq all)
    refine (exec_accepted h rfl rfl ok).trans (congrArg _ ?_)
    have read : s.table.readAnswer f.lowByte = .settings s.table.settings s.table.generation :=
      if_neg (by rw [Frame.lowByte, all]; exact lt_irrefl 16)
    exact (State.answer_alive (s.admitted_alive false p f)).trans (congrArg (s.answered .readRegion p f) read)
  · have ok : fieldsOk .writeRegion f = true := by
      rw [fieldsOk, fields, Option.isSome_some, Bool.and_true]
      exact decide_eq_true small
    refine (exec_accepted h (by simp [configCheck, setup]) rfl ok).trans (congrArg _ ?_)
    change serveWriteRegion p f (s.admitted false p f) = _
    rw [serveWriteRegion, fields]
    exact State.answer_tableWritten (s.admitted_alive false p f) _
  · have ok : fieldsOk .writeSettings f = true := by rw [fieldsOk, fields, Option.isSome_some]
    refine (exec_accepted h (by simp [configCheck, setup]) rfl ok).trans (congrArg _ ?_)
    change serveWriteSettings p f (s.admitted false p f) = _
    rw [serveWriteSettings, fields]
    exact State.answer_tableWritten (s.admitted_alive false p f) _

/-! ### INIT_CELLS (R134) -/

/-- Settles O18: the first group write joins its queue as every access does. -/
theorem initCellsIssuesItsFirstGroupWrite : Obligations.InitCellsIssuesItsFirstGroupWrite := by
  unfold Obligations.InitCellsIssuesItsFirstGroupWrite
  intro p f s i h setup fields b a t
  have ok : fieldsOk .initCells f = true := by rw [fieldsOk, fields, Option.isSome_some]
  have first : max i.base (groupBase i.base) = i.base := max_eq_left (Nat.sub_le _ _)
  have served : exec (.initCells p f) s = .next (t.enqueue a) := by
    refine (exec_accepted h (by simp [configCheck, setup]) rfl ok).trans (congrArg _ ?_)
    change serveInitCells p f (s.admitted false p f) = _
    rw [serveInitCells, fields]
    simp only [State.issueGroupWrite, newFlight, first]
    rfl
  have joins : Joins s.refresh.hold a (s.bank b) ((t.enqueue a).bank b) := t.joins_enqueue (a := a) rfl
  rw [served]
  refine ⟨fun waits => ?_, fun lifted bank => ?_, fun row lifted bank => ?_⟩
  · exact congrArg _ (State.enqueue_eq (joins.waits waits))
  · exact congrArg _ (State.enqueue_eq (joins.idle lifted bank))
  · exact congrArg _ (State.enqueue_eq (joins.ready row lifted bank))

end Sys2Proof.Machine

namespace Sys2Proof.Machine

/-! ### The overlap validation (R141) -/

/-- The first numbered entry a search accepts. -/
theorem findSome?_zipIdx_eq_some {α β : Type} {f : α × Nat → Option β} {l : List α} {y : β}
    (found : l.zipIdx.findSome? f = some y) :
    ∃ i a, l[i]? = some a ∧ f (a, i) = some y ∧ ∀ j b, l[j]? = some b → (f (b, j)).isSome → i ≤ j := by
  obtain ⟨before, x, after, split, hit, none⟩ := List.findSome?_eq_some_iff.1 found
  have numbered (j : Nat) : (before ++ x :: after)[j]? = l[j]?.map (fun a => (a, j)) := by
    rw [← split, List.getElem?_zipIdx, Nat.zero_add]
  have here := numbered before.length
  rw [List.getElem?_append_right (le_refl _), Nat.sub_self, List.getElem?_cons_zero] at here
  obtain ⟨a, entry, rfl⟩ := Option.map_eq_some_iff.1 here.symm
  refine ⟨before.length, a, entry, hit, fun j b other accepts => ?_⟩
  by_contra small
  have earlier := numbered j
  rw [List.getElem?_append_left (not_le.1 small), other] at earlier
  rw [none _ (List.mem_of_getElem? earlier)] at accepts
  cases accepts

theorem findSome?_zipIdx_eq_none {α β : Type} {f : α × Nat → Option β} {l : List α} :
    l.zipIdx.findSome? f = none ↔ ∀ i a, l[i]? = some a → f (a, i) = none := by
  rw [List.findSome?_eq_none_iff]
  exact ⟨fun h i a entry => h _ (List.mem_zipIdx_iff_getElem?.2 entry),
    fun h x hx => h _ _ (List.mem_zipIdx_iff_getElem?.1 hx)⟩

/-- The number of another entry, when an entry overlaps it. -/
def partnerOf (i : Nat) (a : RegionEntry) (x : RegionEntry × Nat) : Option Nat :=
  if x.2 ≠ i ∧ a.overlaps x.1 = true then some x.2 else none

theorem overlapPartner_eq (i : Nat) (a : RegionEntry) (es : List (RegionEntry × Nat)) :
    overlapPartner i a es = es.findSome? (partnerOf i a) := by
  unfold overlapPartner
  induction es with
  | nil => rfl
  | cons x rest ih =>
    rw [List.find?_cons, List.findSome?_cons, ← ih]
    by_cases hit : x.2 ≠ i ∧ a.overlaps x.1 = true
    · rw [partnerOf, if_pos hit, show (x.2 != i && a.overlaps x.1) = true by simpa using hit]
      rfl
    · rw [partnerOf, if_neg hit, show (x.2 != i && a.overlaps x.1) = false by simpa using hit]

/-- Two entries overlap exactly when some cell is covered by both. -/
theorem RegionEntry.overlaps_iff {a b : RegionEntry} (left : 1 ≤ a.length) (right : 1 ≤ b.length) :
    a.overlaps b = true ↔ ∃ c, a.covers c = true ∧ b.covers c = true := by
  simp only [RegionEntry.overlaps, RegionEntry.covers, Bool.and_eq_true, decide_eq_true_eq]
  constructor
  · rintro ⟨⟨⟨hva, hvb⟩, hab⟩, hba⟩
    exact ⟨max a.base b.base, ⟨⟨hva, le_max_left _ _⟩, max_lt (Nat.lt_add_of_pos_right left) hba⟩, ⟨hvb, le_max_right _ _⟩, max_lt hab (Nat.lt_add_of_pos_right right)⟩
  · rintro ⟨c, ⟨⟨hva, h1⟩, h2⟩, ⟨hvb, h3⟩, h4⟩
    exact ⟨⟨⟨hva, hvb⟩, lt_of_le_of_lt h1 h4⟩, lt_of_le_of_lt h3 h2⟩

/-- Entries `i` and `j` are two, and overlap. -/
def RegionTable.Overlapping (t : RegionTable) (i j : Nat) : Prop :=
  i ≠ j ∧ ∃ a b, t.entries[i]? = some a ∧ t.entries[j]? = some b ∧ a.overlaps b = true

theorem RegionTable.overlapPair_none {t : RegionTable} : t.overlapPair = none ↔ ∀ i j, ¬t.Overlapping i j := by
  rw [RegionTable.overlapPair, findSome?_zipIdx_eq_none]
  constructor
  · rintro none i j ⟨other, a, b, first, second, overlap⟩
    have lone := Option.map_eq_none_iff.1 (none i a first)
    rw [overlapPartner_eq, findSome?_zipIdx_eq_none] at lone
    have := lone j b second
    rw [partnerOf, if_pos ⟨Ne.symm other, overlap⟩] at this
    cases this
  · intro none i a first
    rw [Option.map_eq_none_iff, overlapPartner_eq, findSome?_zipIdx_eq_none]
    intro j b second
    exact if_neg (fun both => none i j ⟨Ne.symm both.1, a, b, first, second, both.2⟩)

theorem RegionTable.overlapPair_some {t : RegionTable} {i j : Nat} (pair : t.overlapPair = some (i, j)) :
    t.Overlapping i j ∧ (∀ i' j', t.Overlapping i' j' → i ≤ i') ∧ ∀ j', t.Overlapping i j' → j ≤ j' := by
  obtain ⟨i', a, first, hit, lowest⟩ := findSome?_zipIdx_eq_some pair
  obtain ⟨j', partner, same⟩ := Option.map_eq_some_iff.1 hit
  cases same
  rw [overlapPartner_eq] at partner
  obtain ⟨k, b, second, accepted, lowest'⟩ := findSome?_zipIdx_eq_some partner
  unfold partnerOf at accepted
  split at accepted
  · rename_i both
    cases accepted
    refine ⟨⟨Ne.symm both.1, a, b, first, second, both.2⟩, ?_, ?_⟩
    · rintro x y ⟨other, a', b', first', second', overlap⟩
      refine lowest x a' first' ?_
      rw [Option.isSome_map, overlapPartner_eq, Option.isSome_iff_ne_none, Ne, findSome?_zipIdx_eq_none]
      intro none
      have := none y b' second'
      rw [partnerOf, if_pos ⟨Ne.symm other, overlap⟩] at this
      cases this
    · rintro y ⟨other, a', b', first', second', overlap⟩
      rw [first] at first'
      cases first'
      refine lowest' y b' second' ?_
      rw [partnerOf, if_pos ⟨Ne.symm other, overlap⟩]
      rfl
  · cases accepted

/-- Settles O20. -/
theorem overlapNamesTheLowestEntries : Obligations.OverlapNamesTheLowestEntries := by
  unfold Obligations.OverlapNamesTheLowestEntries
  intro t long shares
  have same (i j : Nat) : t.Overlapping i j ↔ shares i j := by
    constructor
    · rintro ⟨other, a, b, first, second, overlap⟩
      obtain ⟨c, left, right⟩ := (RegionEntry.overlaps_iff (long a (List.mem_of_getElem? first))
        (long b (List.mem_of_getElem? second))).1 overlap
      exact ⟨other, a, b, c, first, second, left, right⟩
    · rintro ⟨other, a, b, c, first, second, left, right⟩
      exact ⟨other, a, b, first, second, (RegionEntry.overlaps_iff (long a (List.mem_of_getElem? first))
        (long b (List.mem_of_getElem? second))).2 ⟨c, left, right⟩⟩
  simp only [← same]
  exact ⟨RegionTable.overlapPair_none, fun i j pair => RegionTable.overlapPair_some pair⟩

/-! ### COMMIT, REOPEN and STAY (R139 to R145) -/

theorem State.handed_nil (p : Port) (s : State) : s.handed p [] = s := by
  simp only [State.handed, List.append_nil]
  exact congrArg (fun x => { s with hpus := x }) (Four.set_get s.hpus p)

/-- Held requests of one port with an ALIVE link are answered in order. -/
theorem State.replyHeld_own {p : Port} {s : State} (alive : (s.hpu p).link = .alive) (kind : Byte) (body : RespBody)
    (held : List (Port × Tag)) :
    s.replyHeld kind body (heldOf p held) =
      s.handed p ((held.filter (fun x => x.1 == p)).map (fun x => { kind := kind, tag := x.2, body := body })) := by
  unfold heldOf
  have own : ∀ x ∈ held.filter (fun x => x.1 == p), x.1 = p := fun x hx => by simpa using (List.mem_filter.1 hx).2
  generalize held.filter (fun x => x.1 == p) = l at own ⊢
  induction l generalizing s with
  | nil => exact (State.handed_nil p s).symm
  | cons x rest ih =>
    obtain rfl := own x List.mem_cons_self
    rw [State.replyHeld_cons, State.reply_alive _ _ _ alive,
      ih ((State.handed_link _ _ _).trans alive) (fun y hy => own y (List.mem_cons_of_mem _ hy)), State.handed_handed]
    rfl

theorem State.commitQuorum_iff {s : State} :
    s.commitQuorum = true ↔ s.Agreed (fun p => s.config.commits.get p = some s.table.generation) := by
  rw [State.commitQuorum, State.quorum_iff]
  simp only [beq_iff_eq]
  rfl

theorem State.reopenQuorum_iff {s : State} :
    s.reopenQuorum = true ↔ s.Agreed (fun p => s.config.reopenVotes.get p = true) := State.quorum_iff

theorem State.testConfig_setup {s : State} (setup : s.config.state = .setup)
    (agreed : s.Agreed (fun p => s.config.commits.get p = some s.table.generation)) : s.testConfig = s.decideCommit := by
  simp only [State.testConfig, State.testQuorums, setup, State.commitQuorum_iff.2 agreed, if_true]

theorem State.testConfig_run {s : State} (run : s.config.state = .run)
    (agreed : s.Agreed (fun p => s.config.reopenVotes.get p = true)) : s.testConfig = s.decideReopen := by
  simp only [State.testConfig, State.testQuorums, run, State.reopenQuorum_iff.2 agreed, if_true]

theorem State.testConfig_undecided {s : State}
    (undecided : s.config.state = .setup ∧ ¬s.Agreed (fun p => s.config.commits.get p = some s.table.generation) ∨
      s.config.state = .run ∧ ¬s.Agreed (fun p => s.config.reopenVotes.get p = true)) : s.testConfig = s := by
  refine State.testConfig_notDue (State.configDue_calm (undecided.imp (fun h => ⟨h.1, ?_⟩) (fun h => ⟨h.1, ?_⟩)))
  · exact Bool.eq_false_iff.2 (fun quorum => h.2 (State.commitQuorum_iff.1 quorum))
  · exact Bool.eq_false_iff.2 (fun quorum => h.2 (State.reopenQuorum_iff.1 quorum))

theorem State.decideCommit_overlap {s : State} {i j : Nat} (overlap : s.table.overlapPair = some (i, j)) :
    s.decideCommit =
      State.replyHeld 0x90 (.overlap i j) s.config.heldCommits
        { s with config := { s.config with commits := Four.all none, heldCommits := [] } } := by
  rw [State.decideCommit, overlap]
  rfl

theorem State.decideCommit_apart {s : State} (apart : s.table.overlapPair = none) :
    s.decideCommit = State.testRun { s with config := { s.config with state := .committing } } := by
  rw [State.decideCommit, apart]
  rfl

theorem State.runDue_iff {s : State} : s.runDue = true ↔ s.config.state = .committing ∧ s.config.inits = [] := by
  simp [State.runDue]

theorem State.testRun_due {s : State} (due : s.config.state = .committing ∧ s.config.inits = []) :
    s.testRun =
      State.raiseAll .running
        (State.replyHeld 0x90 .ok s.config.heldCommits
          { s with config := { s.config with state := .run, commits := Four.all none, heldCommits := [] } }) := by
  rw [State.testRun, if_pos (State.runDue_iff.2 due)]
  rfl

theorem State.drainDue_iff {s : State} :
    s.drainDue = true ↔ s.config.state = .draining ∧
      ∀ b, ∀ a ∈ (s.bank b).queue ++ (s.bank b).current.toList, a.isHost = false := by
  rw [State.drainDue, Bool.and_eq_true, beq_iff_eq, State.noHostAccess_iff]

theorem heldOf_none {p : Port} {held : List (Port × Tag)} (none : ∀ x ∈ held, x.1 ≠ p) : heldOf p held = [] :=
  List.filter_eq_nil_iff.2 (fun x hx => by simpa using none x hx)

theorem holdRequest_new {p : Port} {t : Tag} {held : List (Port × Tag)} (none : ∀ x ∈ held, x.1 ≠ p) :
    holdRequest p t held = held ++ [(p, t)] := by
  rw [holdRequest, List.filter_eq_self.2 (fun x hx => by simpa using none x hx)]

/-- The state in which a COMMIT has been recorded and held, before an earlier one is answered. -/
def State.committed (p : Port) (f : Frame) (s : State) : State :=
  { s.admitted false p f with
    config :=
      { s.config with
        commits := s.config.commits.set p (some s.table.generation), heldCommits := holdRequest p f.tag s.config.heldCommits } }

theorem exec_commit {p : Port} {f : Frame} {s : State} (h : Accepted .commit p f s) (setup : s.config.state = .setup) :
    exec (.commit p f) s = .next
      (if f.generationField = s.table.generation then
        ((s.committed p f).replyHeld 0x90 (.refused .superseded) (heldOf p s.config.heldCommits)).testConfig
      else s.answered .commit p f (.refused .stale)) := by
  refine (exec_accepted h (by simp [configCheck, setup]) rfl rfl).trans (congrArg _ ?_)
  by_cases current : f.generationField = s.table.generation
  · rw [if_pos current]
    exact if_pos current
  · rw [if_neg current]
    exact (if_neg current).trans (State.answer_alive (s.admitted_alive false p f))

theorem State.admitted_ports {p : Port} {s : State} (up : (s.hpu p).port = .up) (keep : Bool) (f : Frame) (q : Port) :
    ((s.admitted keep p f).hpu q).port = (s.hpu q).port := by
  by_cases same : q = p
  · subst same
    rw [State.admitted_up up, up]
  · rw [State.hpu_admitted_other _ _ _ same]

theorem State.handed_port (p q : Port) (rs : List Response) (s : State) : ((s.handed p rs).hpu q).port = (s.hpu q).port := by
  by_cases same : q = p
  · subst same
    rw [State.hpu_handed_same]
  · rw [State.hpu_handed_other _ _ same]

/-- Settles O19. -/
theorem commitIsHeldOrDecides : Obligations.CommitIsHeldOrDecides := by
  unfold Obligations.CommitIsHeldOrDecides
  refine ⟨fun p f s h setup => ⟨fun stale => ?_, fun current other => ?_⟩, fun p f s h setup current others fresh => ?_⟩
  · rw [exec_commit h setup, if_neg (show ¬f.generationField = _ from stale)]
  · obtain ⟨q, different, up, unrecorded⟩ := other
    rw [exec_commit h setup, if_pos (show f.generationField = _ from current),
      State.replyHeld_own (s := s.committed p f) (s.admitted_alive false p f)]
    refine congrArg _ (State.testConfig_undecided (.inl ⟨setup, fun agreed => unrecorded ?_⟩))
    have recorded := agreed.2 q (by
      rw [State.handed_port]
      exact (State.admitted_ports h.up false f q).trans up)
    exact (Four.get_set_other _ _ different).symm.trans recorded
  · intro t held
    have committed : s.committed p f =
        { t with
          config :=
            { s.config with commits := s.config.commits.set p (some s.table.generation), heldCommits := held } } := by
      rw [State.committed, holdRequest_new fresh]
    have decides : exec (.commit p f) s = .next (s.committed p f).decideCommit := by
      rw [exec_commit h setup, if_pos (show f.generationField = _ from current), heldOf_none fresh, State.replyHeld_nil]
      refine congrArg _ (State.testConfig_setup setup ⟨⟨p, State.admitted_up h.up false f⟩, fun q up => ?_⟩)
      change (s.config.commits.set p (some s.table.generation)).get q = _
      rw [Four.get_set]
      split
      · rfl
      · rename_i different
        exact others q different ((State.admitted_ports h.up false f q).symm.trans up)
    rw [decides]
    refine ⟨fun i j overlap => ?_, fun apart done => ?_, fun apart flying => ?_⟩
    · rw [State.decideCommit_overlap (s := s.committed p f) overlap, committed]
    · rw [State.decideCommit_apart (s := s.committed p f) apart, State.testRun_due (by exact ⟨rfl, done⟩), committed]
    · rw [State.decideCommit_apart (s := s.committed p f) apart, State.testRun_notDue
        (by exact Bool.eq_false_iff.2 (fun due => flying (State.runDue_iff.1 due).2)), committed]

theorem exec_drainEnd {s : State} (high : s.resetHigh = true) : exec .drainEnd s = .next s.testDrain :=
  whileReleased_high high _

theorem exec_stepToRun {s : State} (high : s.resetHigh = true) : exec .stepToRun s = .next s.testRun :=
  whileReleased_high high _

theorem State.holdReopen_own {p : Port} {t : Tag} {s : State} (alive : (s.hpu p).link = .alive) :
    s.holdReopen p t =
      State.handed p
        ((s.config.heldReopens.filter (fun x => x.1 == p)).map
          (fun x => { kind := 0x91, tag := x.2, body := .refused .superseded }))
        { s with config := { s.config with heldReopens := holdRequest p t s.config.heldReopens } } :=
  State.replyHeld_own (s := s.modConfig (fun k => { k with heldReopens := holdRequest p t k.heldReopens })) alive _ _ _

theorem State.holdReopen_new {p : Port} {t : Tag} {s : State} (alive : (s.hpu p).link = .alive)
    (fresh : ∀ x ∈ s.config.heldReopens, x.1 ≠ p) :
    s.holdReopen p t = { s with config := { s.config with heldReopens := s.config.heldReopens ++ [(p, t)] } } := by
  rw [State.holdReopen_own alive, List.filter_eq_nil_iff.2 (fun x hx => by simpa using fresh x hx), List.map_nil,
    State.handed_nil, holdRequest_new fresh]

/-- Settles O21. -/
theorem reopenAndStayActOnTheVote : Obligations.ReopenAndStayActOnTheVote := by
  unfold Obligations.ReopenAndStayActOnTheVote
  refine ⟨fun p f s h => ?_, fun p f s h run others fresh => ?_, fun p f s h run => ⟨fun voted => ?_, fun unvoted => ?_⟩⟩
  · intro superseded held
    refine ⟨fun run other => ?_, fun draining => ?_⟩
    · obtain ⟨q, different, up, unvoted⟩ := other
      refine (exec_accepted h (by simp [configCheck, run]) rfl rfl).trans (congrArg _ ?_)
      change serveReopen p f (s.admitted false p f) = _
      rw [serveReopen, if_pos (show (s.admitted false p f).config.state = .run from run)]
      rw [State.holdReopen_own (by exact s.admitted_alive false p f)]
      refine State.testConfig_undecided (.inr ⟨run, fun agreed => ?_⟩)
      have voted := agreed.2 q (by
        rw [State.handed_port]
        exact (State.admitted_ports h.up false f q).trans up)
      exact Bool.false_ne_true (unvoted.symm.trans ((Four.get_set_other _ _ different).symm.trans voted))
    · refine (exec_accepted h (by simp [configCheck, draining]) rfl rfl).trans (congrArg _ ?_)
      change serveReopen p f (s.admitted false p f) = _
      rw [serveReopen, if_neg (show ¬(s.admitted false p f).config.state = .run from by
        rw [show (s.admitted false p f).config.state = .draining from draining]
        decide)]
      exact State.holdReopen_own (s.admitted_alive false p f)
  · intro t
    have decides : exec (.reopen p f) s = .next t.testDrain := by
      refine (exec_accepted h (by simp [configCheck, run]) rfl rfl).trans (congrArg _ ?_)
      change serveReopen p f (s.admitted false p f) = _
      rw [serveReopen, if_pos (show (s.admitted false p f).config.state = .run from run),
        State.holdReopen_new (by exact s.admitted_alive false p f) (by exact fresh)]
      refine (State.testConfig_run (by exact run) ⟨⟨p, by exact State.admitted_up h.up false f⟩, fun q up => ?_⟩).trans ?_
      · change (s.config.reopenVotes.set p true).get q = _
        rw [Four.get_set]
        split
        · rfl
        · rename_i different
          exact others q different ((State.admitted_ports h.up false f q).symm.trans up)
      · rfl
    refine ⟨fun ⟨b, a, mem, host⟩ => ?_, fun none => ?_⟩
    · rw [decides, State.testDrain_notDue (Bool.eq_false_iff.2 (fun due => ?_))]
      exact Bool.false_ne_true (((State.drainDue_iff.1 due).2 b a mem).symm.trans host)
    · rw [decides]
      exact (exec_drainEnd (s := t) h.released).symm
  · refine (exec_accepted h (by simp [configCheck, run]) rfl rfl).trans (congrArg _ ?_)
    change serveStay p f (s.admitted false p f) = _
    rw [serveStay, if_pos (show (s.admitted false p f).config.reopenVotes.get p = true from voted)]
    simp only
    rw [State.replyHeld_own (show ((State.modConfig _ (s.admitted false p f)).hpu p).link = .alive from
      s.admitted_alive false p f), State.answer_alive (by exact (State.handed_link _ _ _).trans (s.admitted_alive false p f)),
      State.handed_handed]
    rfl
  · refine (exec_accepted h (by simp [configCheck, run]) rfl rfl).trans (congrArg _ ?_)
    change serveStay p f (s.admitted false p f) = _
    rw [serveStay, if_neg (show ¬(s.admitted false p f).config.reopenVotes.get p = true from
      fun voted => Bool.false_ne_true (unvoted.symm.trans voted))]
    exact State.answer_alive (s.admitted_alive false p f)

/-! ### The ends of the configuration's steps (R142, R145) -/

theorem State.answerParked_frame (e : ParkEntry) (body : RespBody) (s : State) :
    s.answerParked e body = { s with hpus := (s.answerParked e body).hpus } := State.replyUp_frame _ _ _ _ _

/-- The withdrawal empties the Park List, answers from it, and leaves every other block (R59). -/
theorem State.withdrawAll_frame (s : State) : s.withdrawAll = { s with park := [], hpus := s.withdrawAll.hpus } := by
  have fold (l : List ParkEntry) (t : State) :
      l.foldl (fun s e => s.answerParked e (.operate (unmetReport .withdrawn e.lastValue e.lastOwner e.lastFlags))) t =
        { t with
          hpus := (l.foldl (fun s e =>
            s.answerParked e (.operate (unmetReport .withdrawn e.lastValue e.lastOwner e.lastFlags))) t).hpus } := by
    induction l generalizing t with
    | nil => rfl
    | cons e rest ih =>
      rw [List.foldl_cons, ih, State.answerParked_frame]
  exact fold s.park { s with park := [] }


/-- One entry withdrawn: it is answered when its port is UP in the state in which the drain ends (R59). -/
def State.withdrawOne (s t : State) (e : ParkEntry) : State :=
  if (s.hpu e.port).port = .up then
    t.reply e.port 0x81 e.tag
      (.operate
        { outcome := .withdrawn, old := e.lastValue, new := e.lastValue, owner := e.lastOwner, flags := e.lastFlags,
          wrapped := false })
  else t

theorem State.withdrawOne_eq {s t : State} (ports : SamePorts s t) (e : ParkEntry) :
    t.answerParked e (.operate (unmetReport .withdrawn e.lastValue e.lastOwner e.lastFlags)) = s.withdrawOne t e := by
  unfold State.withdrawOne
  by_cases up : (s.hpu e.port).port = .up
  · rw [if_pos up]
    exact State.replyUp_up _ _ _ ((ports e.port).1.trans up)
  · rw [if_neg up]
    exact State.replyUp_absent _ _ _ (fun u => up ((ports e.port).1.symm.trans u))

/-- The withdrawal as the manual tells it: each entry of an UP port is answered, in park order (R59). -/
theorem State.withdrawAll_eq (s : State) : s.withdrawAll = s.park.foldl s.withdrawOne { s with park := [] } := by
  have fold (l : List ParkEntry) {t : State} (ports : SamePorts s t) :
      l.foldl (fun s e => s.answerParked e (.operate (unmetReport .withdrawn e.lastValue e.lastOwner e.lastFlags))) t =
        l.foldl s.withdrawOne t := by
    induction l generalizing t with
    | nil => rfl
    | cons e rest ih =>
      have next : SamePorts s (s.withdrawOne t e) := by
        rw [← State.withdrawOne_eq ports]
        exact ports.trans (SamePorts.replyUp _ _ _ _ t)
      rw [List.foldl_cons, List.foldl_cons, State.withdrawOne_eq ports, ih next]
  exact fold s.park (.of_hpus rfl)

/-- The end of the drain, its steps told on the state it begins in (R145). -/
theorem State.endDrain_eq (s : State) :
    s.endDrain =
      State.raiseAll .reconfigured
        (State.replyHeld 0x91 .ok s.config.heldReopens
          (s.park.foldl s.withdrawOne
            { s with
              park := [], watches := []
              config := { s.config with state := .setup, reopenVotes := Four.all false, heldReopens := [] }
              refresh := { s.refresh with votes := Four.all false } })) := by
  have withdrawn := s.withdrawAll_eq
  have config : s.withdrawAll.config = s.config := by rw [State.withdrawAll_frame]
  have refresh : s.withdrawAll.refresh = s.refresh := by rw [State.withdrawAll_frame]
  have steps : s.endDrain =
      State.raiseAll .reconfigured
        (State.replyHeld 0x91 .ok s.withdrawAll.config.heldReopens
          { s.withdrawAll with
            watches := []
            config := { s.withdrawAll.config with state := .setup, reopenVotes := Four.all false, heldReopens := [] }
            refresh := { s.withdrawAll.refresh with votes := Four.all false } }) := rfl
  rw [steps, config, refresh, withdrawn]
  refine congrArg (fun u => State.raiseAll .reconfigured (State.replyHeld 0x91 .ok s.config.heldReopens u)) ?_
  refine (List.foldl_hom (fun t : State =>
    { t with
      watches := []
      config := { s.config with state := .setup, reopenVotes := Four.all false, heldReopens := [] }
      refresh := { s.refresh with votes := Four.all false } }) (fun t e => ?_)).symm
  unfold State.withdrawOne
  split <;> rfl

/-- Settles O22. -/
theorem configurationStepsEnd : Obligations.ConfigurationStepsEnd := by
  unfold Obligations.ConfigurationStepsEnd
  refine ⟨fun s high => ⟨fun committing done => ?_, fun other => ?_⟩, fun s high => ⟨fun draining none => ?_, fun other => ?_⟩⟩
  · rw [exec_stepToRun high, State.testRun_due ⟨committing, done⟩]
  · rw [exec_stepToRun high, State.testRun_notDue (Bool.eq_false_iff.2 (fun due => ?_))]
    obtain ⟨committing, done⟩ := State.runDue_iff.1 due
    exact other.elim (· committing) (· done)
  · rw [exec_drainEnd high, State.testDrain, if_pos (State.drainDue_iff.2 ⟨draining, none⟩), State.endDrain_eq]
    rfl
  · rw [exec_drainEnd high, State.testDrain_notDue (Bool.eq_false_iff.2 (fun due => ?_))]
    obtain ⟨draining, none⟩ := State.drainDue_iff.1 due
    obtain elsewhere | ⟨b, a, mem, host⟩ := other
    · exact elsewhere draining
    · exact Bool.false_ne_true ((none b a mem).symm.trans host)

end Sys2Proof.Machine

namespace Sys2Proof.Machine

/-! ### The opportunistic refresh (R96, R97, R103) -/

theorem State.opportunityDue_iff {s : State} : s.opportunityDue = true ↔ s.Opportunity := by
  simp only [State.opportunityDue, State.Opportunity, State.queuesEmpty, Bool.and_eq_true, beq_iff_eq, decide_eq_true_eq,
    Four.all_toList, List.isEmpty_iff, Option.isNone_iff_eq_none, Bool.not_eq_true', forall_and, State.bank]
  exact ⟨fun ⟨⟨⟨⟨active, owed⟩, queues⟩, currents⟩, lifted⟩ => ⟨active, owed, lifted, queues, currents⟩,
    fun ⟨active, owed, lifted, queues, currents⟩ => ⟨⟨⟨⟨active, owed⟩, queues⟩, currents⟩, lifted⟩⟩

theorem State.testOpportunity_due {s : State} (due : s.Opportunity) : s.testOpportunity = s.placeHold :=
  if_pos (State.opportunityDue_iff.2 due)

theorem State.testOpportunity_rests {s : State} (no : ¬s.Opportunity) : s.testOpportunity = s :=
  if_neg (fun due => no (State.opportunityDue_iff.1 due))

/-- The placing of the hold leaves a bank IDLE exactly when it was. -/
theorem BankCtl.holdPlaced_idle {k : BankCtl} : k.holdPlaced.state = .idle ↔ k.state = .idle := by
  unfold BankCtl.holdPlaced
  split
  · rename_i row ready
    simp [ready]
  · rfl

/-- In ACTIVE the Refresh Controller begins a refresh once the banks it holds are closed, and no placing. -/
theorem State.testHeld_active {s : State} (active : s.refresh.power = .active) :
    s.testHeld = if s.heldClosed then s.beginRefresh else s := by
  have noPlacing (t : State) (power : t.refresh.power = .active) : t.testPlacingStart = t := by
    simp [State.testPlacingStart, power]
  unfold State.testHeld State.testRefreshStart
  cases closed : s.heldClosed with
  | true => simpa [active] using noPlacing s.beginRefresh active
  | false => simpa using noPlacing s active

theorem State.testHeld_open {s : State} (busy : s.heldClosed = false) : s.testHeld = s := by
  simp [State.testHeld, State.testRefreshStart, State.testPlacingStart, busy]

/-- The placing of the hold does no more than place it while a bank is not closed or a refresh is in progress. -/
theorem State.placeHold_waits {s : State}
    (busy : (∃ b, ¬((s.bank b).state = .idle ∧ (s.bank b).current = none)) ∨ s.refresh.refreshing = true) :
    s.placeHold = s.holdBanks := by
  refine State.testHeld_open (s := s.holdBanks) (Bool.eq_false_iff.2 (fun closed => ?_))
  obtain ⟨-, free, idle⟩ := State.heldClosed_iff.1 closed
  obtain ⟨b, other⟩ | refreshing := busy
  · have := idle b
    rw [State.bank_map (s := s) rfl, BankCtl.holdPlaced_idle, BankCtl.holdPlaced_current] at this
    exact other this
  · exact Bool.false_ne_true (free.symm.trans refreshing)

/-- Banks closed already stay as they are under the placing of the hold. -/
theorem State.holdBanks_closed {s : State} (idle : ∀ b, (s.bank b).state = .idle ∧ (s.bank b).current = none)
    (free : s.refresh.refreshing = false) : s.holdBanks.heldClosed = true ∧ s.holdBanks.banks = s.banks := by
  have banks : s.holdBanks.banks = s.banks :=
    Four.map_eq_self (fun b => show (s.bank b).holdPlaced = s.bank b by simp [BankCtl.holdPlaced, (idle b).1])
  refine ⟨State.heldClosed_iff.2 ⟨rfl, free, fun b => ?_⟩, banks⟩
  rw [State.bank, banks]
  exact idle b

theorem State.placeHold_begins {s : State} (active : s.refresh.power = .active)
    (idle : ∀ b, (s.bank b).state = .idle ∧ (s.bank b).current = none) (free : s.refresh.refreshing = false) :
    s.placeHold =
      { s with
        banks := s.banks.map (fun k => { k with state := .refreshing })
        refresh := { s.refresh with hold := true, refreshing := true } } := by
  obtain ⟨closed, banks⟩ := State.holdBanks_closed idle free
  have held : s.placeHold = s.holdBanks.testHeld := rfl
  rw [held, State.testHeld_active (by exact active), if_pos closed, State.beginRefresh, banks]
  rfl

/-- The test for an opportunistic refresh, as `RefreshTested` tells it. -/
theorem State.testOpportunity_tested (s : State) : RefreshTested s s.testOpportunity := by
  by_cases due : s.Opportunity
  · rw [State.testOpportunity_due due]
    obtain ⟨active, owed, lifted, none⟩ := id due
    by_cases busy : (∃ b, (s.bank b).state ≠ .idle) ∨ s.refresh.refreshing = true
    · rw [State.placeHold_waits (busy.imp_left (fun ⟨b, other⟩ => ⟨b, fun closed => other closed.1⟩))]
      exact .places due busy
    · obtain ⟨idle, free⟩ := not_or.1 busy
      have idle' (b : Bank) : (s.bank b).state = .idle := not_not.1 (fun other => idle ⟨b, other⟩)
      have free' : s.refresh.refreshing = false := by simpa using free
      rw [State.placeHold_begins active (fun b => ⟨idle' b, (none b).2⟩) free']
      exact .begins due idle' free'
  · rw [State.testOpportunity_rests due]
    exact .rests due

/-! ### The configuration's decisions (R141 to R145) -/

/-- The Configuration Controller's test, as `Decides` tells it. -/
theorem State.testConfig_decides {s : State} (high : s.resetHigh = true) : Decides s s.testConfig := by
  cases state : s.config.state with
  | setup =>
    by_cases agreed : s.Agreed (fun p => s.config.commits.get p = some s.table.generation)
    · rw [State.testConfig_setup state agreed]
      cases pair : s.table.overlapPair with
      | none =>
        rw [State.decideCommit_apart pair]
        exact .commits state agreed pair (exec_stepToRun (by exact high))
      | some x =>
        rw [State.decideCommit_overlap pair]
        exact .overlaps state agreed pair
    · rw [State.testConfig_undecided (.inl ⟨state, agreed⟩)]
      exact .waits (.inl ⟨state, agreed⟩)
  | run =>
    by_cases agreed : s.Agreed (fun p => s.config.reopenVotes.get p = true)
    · rw [State.testConfig_run state agreed]
      exact .reopens state agreed (exec_drainEnd (by exact high))
    · rw [State.testConfig_undecided (.inr ⟨state, agreed⟩)]
      exact .waits (.inr ⟨state, agreed⟩)
  | committing =>
    have test : s.testConfig = s.testRun := by rw [State.testConfig, state]
    rw [test]
    exact .runs state (exec_stepToRun high)
  | draining =>
    have test : s.testConfig = s.testDrain := by rw [State.testConfig, state]
    rw [test]
    exact .drains state (exec_drainEnd high)

/-! ### What falls together with a happening (R161, R162) -/

theorem exec_teardownWalkStart {p : Port} {s : State} (high : s.resetHigh = true) :
    exec (.teardownWalkStart p) s = .next (if s.walkDue p then s.walk p else s) := whileReleased_high high _

/-- Whether an act is due. -/
def Act.due (s : State) : Act → Bool
  | .walk p => s.walkDue p
  | .config => s.configDue
  | .refresh => s.opportunityDue

/-- Every act there is. -/
def allActs : List Act := [.walk 0, .walk 1, .walk 2, .walk 3, .config, .refresh]

theorem State.dueActs_eq (s : State) : s.dueActs = allActs.filter (Act.due s) := by
  have walks : (allFour.filter s.walkDue).map Act.walk = (allFour.map Act.walk).filter (Act.due s) := by
    rw [List.filter_map]
    rfl
  rw [State.dueActs, walks, show allActs = allFour.map Act.walk ++ [Act.config] ++ [Act.refresh] from rfl, List.filter_append,
    List.filter_append]
  congr 1
  · congr 1
    cases due : s.configDue <;> simp [Act.due, due]
  · cases due : s.opportunityDue <;> simp [Act.due, due]

theorem Act.run_notDue {s : State} {a : Act} (rests : a.due s = false) : a.run s = s := by
  cases a with
  | walk p => exact if_neg (by simpa [Act.due] using rests)
  | config => exact State.testConfig_notDue rests
  | refresh => exact if_neg (by simpa [Act.due] using rests)

theorem Taken.run {acts : List Act} {s : State} (high : s.resetHigh = true) :
    Taken acts s (acts.foldl (fun s a => a.run s) s) := by
  induction acts generalizing s with
  | nil => exact .ended s
  | cons a rest ih =>
    have later := ih (s := a.run s) ((SameStore.act a s).resetHigh.trans high)
    cases a with
    | walk p => exact .walk (exec_teardownWalkStart high) later
    | config => exact .config (State.testConfig_decides high) later
    | refresh => exact .refresh s.testOpportunity_tested later

theorem foldl_run_notDue {acts : List Act} {s : State} (rest : ∀ a ∈ acts, a.due s = false) :
    acts.foldl (fun s a => a.run s) s = s := by
  induction acts with
  | nil => rfl
  | cons a later ih =>
    rw [List.foldl_cons, Act.run_notDue (rest a List.mem_cons_self), ih (fun x hx => rest x (List.mem_cons_of_mem _ hx))]

/-- What the settling of a state takes: the acts that are not due, which do nothing, and then the due ones in some order. -/
theorem State.fallsTo_acts {s : State} {acts : List Act} (n : Nat) (high : s.resetHigh = true) (perm : acts.Perm s.dueActs) :
    s.FallsTo (acts.foldl (fun s a => a.run s) { s with choices := n }) := by
  have rest : ∀ a ∈ allActs.filter (fun a => !Act.due s a), Act.due { s with choices := n } a = false := by
    intro a ha
    have due : Act.due s a = false := by simpa using (List.mem_filter.1 ha).2
    exact Eq.trans (by cases a <;> rfl) due
  refine ⟨n, allActs.filter (fun a => !Act.due s a) ++ acts, ?_, ?_⟩
  · rw [State.dueActs_eq] at perm
    exact (perm.append_left _).trans (List.perm_append_comm.trans (List.filter_append_perm (Act.due s) allActs))
  · have taken := Taken.run (acts := allActs.filter (fun a => !Act.due s a) ++ acts) (s := { s with choices := n }) high
    rwa [List.foldl_append, foldl_run_notDue rest] at taken

theorem State.settle_falls {s : State} (high : s.resetHigh = true) : s.FallsTo s.settle := by
  unfold State.settle
  split
  · exact State.fallsTo_acts _ high (inKeyOrder_perm _ _)
  · exact State.fallsTo_acts s.choices high (.refl _)

end Sys2Proof.Machine

namespace Sys2Proof.Machine

/-! ### The pick (R87, R89, R96) -/

theorem exec_bankPick {b : Bank} {s : State} (high : s.resetHigh = true) : exec (.bankPick b) s = .next (s.pickBank b) :=
  whileReleased_high high _

/-- A READY bank whose oldest entry has a count below 4 picks the oldest entry for the open row (R87). -/
theorem BankCtl.pick_hit {k : BankCtl} {row : Nat} {older younger : List Access} {hit : Access} (none : k.current = none)
    (ready : k.state = .ready row) (queue : k.queue = older ++ hit :: younger) (miss : ∀ a ∈ older, a.row ≠ row)
    (hits : hit.row = row) (bypass : ((older ++ [hit]).head?.map (·.bypass)).getD 0 < 4) :
    k.pick =
      { state := .accessing row, current := some hit
        queue := older.map (fun a => { a with bypass := a.bypass + 1 }) ++ younger } := by
  have free : k.free = true := BankCtl.free_iff.2 ⟨none, .inr ⟨row, ready⟩⟩
  have chosen : chooseAccess k.state k.queue =
      some (hit, older.map (fun a => { a with bypass := a.bypass + 1 }) ++ younger) := by
    have split := splitHit_hit hit younger miss hits
    rw [ready, queue]
    cases older with
    | nil =>
      rw [List.nil_append] at split ⊢
      rw [chooseAccess, split]
      exact if_pos bypass
    | cons a rest =>
      rw [List.cons_append] at split ⊢
      rw [chooseAccess, split]
      exact if_pos bypass
  rw [BankCtl.pick, if_pos free, chosen]
  simp [ready, stateForPick, hits]

/-- A READY bank picks its oldest entry when that has a count of 4, or none is for the open row (R87). -/
theorem BankCtl.pick_oldest {k : BankCtl} {row : Nat} {rest : List Access} {oldest : Access} (none : k.current = none)
    (ready : k.state = .ready row) (queue : k.queue = oldest :: rest)
    (first : 4 ≤ oldest.bypass ∨ ∀ a ∈ oldest :: rest, a.row ≠ row) :
    k.pick =
      { state := if oldest.row = row then .accessing row else .closing row, current := some oldest, queue := rest } := by
  have free : k.free = true := BankCtl.free_iff.2 ⟨none, .inr ⟨row, ready⟩⟩
  have chosen : chooseAccess k.state k.queue = some (oldest, rest) := by
    rw [ready, queue, chooseAccess]
    obtain capped | miss := first
    · exact if_neg (not_lt.2 capped)
    · rw [splitHit_none miss]
      exact ite_self _
  rw [BankCtl.pick, if_pos free, chosen, ready]
  rfl

theorem BankCtl.pick_idle {k : BankCtl} {rest : List Access} {oldest : Access} (none : k.current = none)
    (idle : k.state = .idle) (queue : k.queue = oldest :: rest) :
    k.pick = { state := .opening oldest.row, current := some oldest, queue := rest } := by
  have free : k.free = true := BankCtl.free_iff.2 ⟨none, .inl idle⟩
  rw [BankCtl.pick, if_pos free, idle, queue]
  rfl

/-- Settles O26. -/
theorem banksPickByTheRule : Obligations.BanksPickByTheRule := by
  unfold Obligations.BanksPickByTheRule
  refine ⟨fun b s high lifted none => ⟨fun row older hit younger ready queue miss hits bypass => ?_,
    fun row oldest rest ready queue first => ?_, fun oldest rest idle queue => ?_⟩, fun b s hold => ?_⟩
  · rw [exec_bankPick high, State.pickBank_lifted b lifted]
    exact congrArg (fun k => Host.Outcome.next { s with banks := s.banks.set b k })
      (BankCtl.pick_hit none ready queue miss hits bypass)
  · rw [exec_bankPick high, State.pickBank_lifted b lifted]
    exact congrArg (fun k => Host.Outcome.next { s with banks := s.banks.set b k })
      (BankCtl.pick_oldest none ready queue first)
  · rw [exec_bankPick high, State.pickBank_lifted b lifted]
    exact congrArg (fun k => Host.Outcome.next { s with banks := s.banks.set b k }) (BankCtl.pick_idle none idle queue)
  · cases high : s.resetHigh with
    | true => rw [exec_bankPick high, State.pickBank_held b hold]
    | false => exact exec_low high (by simp) (by simp)

/-! ### The ends of row closes and row opens (R89, R91, R97, R111) -/

theorem State.heldClosed_lifted {s : State} (lifted : s.refresh.hold = false) : s.heldClosed = false := by
  simp [State.heldClosed, lifted]

theorem State.heldClosed_busy {s : State} {b : Bank} (busy : ¬((s.bank b).state = .idle ∧ (s.bank b).current = none)) :
    s.heldClosed = false :=
  Bool.eq_false_iff.2 (fun closed => busy ((State.heldClosed_iff.1 closed).2.2 b))

/-- In ENTERING the placing of the storage begins once every bank is closed under the hold (R111). -/
theorem State.testHeld_entering {s : State} (entering : s.refresh.power = .entering) (closed : s.heldClosed = true)
    (notYet : s.refresh.placing = none) :
    s.testHeld = { s with refresh := { s.refresh with placing := some s.table.settings.mask } } := by
  have noRefresh : s.testRefreshStart = s := by simp [State.testRefreshStart, entering]
  rw [State.testHeld, noRefresh, State.testPlacingStart, closed, entering, notYet]
  rfl

theorem BankCtl.closeEnded_some {k : BankCtl} {a : Access} (current : k.current = some a) :
    k.closeEnded = { k with state := .opening a.row } := by
  obtain ⟨st, cur, queue⟩ := k
  subst current
  rfl

theorem BankCtl.closeEnded_none {k : BankCtl} (current : k.current = none) : k.closeEnded = { k with state := .idle } := by
  obtain ⟨st, cur, queue⟩ := k
  subst current
  rfl

theorem BankCtl.openEnded_opening {k : BankCtl} {row : Nat} {a : Access} (opening : k.state = .opening row)
    (current : k.current = some a) : k.openEnded = { k with state := .accessing row } := by
  obtain ⟨st, cur, queue⟩ := k
  subst opening current
  rfl

theorem exec_rowCloseEnd {b : Bank} {s : State} {row : Nat} (high : s.resetHigh = true)
    (closing : (s.bank b).state = .closing row) :
    exec (.rowCloseEnd b) s = .next ((s.modBank b BankCtl.closeEnded).pickBank b).testHeld := by
  refine (whileReleased_high high _).trans (congrArg _ (if_pos ?_))
  rw [BankCtl.isClosing, closing]

theorem exec_rowOpenEnd {b : Bank} {s : State} (high : s.resetHigh = true) :
    exec (.rowOpenEnd b) s = .next (s.modBank b BankCtl.openEnded) := whileReleased_high high _

/-- Settles O27. -/
theorem rowStepsEnd : Obligations.RowStepsEnd := by
  unfold Obligations.RowStepsEnd
  refine fun b s high => ⟨fun row a closing current => ?_, fun row closing none lifted => ?_,
    fun row closing none hold => ?_, fun row a opening current => ?_⟩
  · have opened : (s.bank b).closeEnded = { s.bank b with state := .opening (a.cell / 64) } :=
      BankCtl.closeEnded_some current
    have next : s.modBank b BankCtl.closeEnded =
        { s with banks := s.banks.set b { s.bank b with state := .opening (a.cell / 64) } } :=
      congrArg (fun k => { s with banks := s.banks.set b k }) opened
    have stays : (s.modBank b BankCtl.closeEnded).pickBank b = s.modBank b BankCtl.closeEnded := by
      cases hold : s.refresh.hold with
      | true => exact State.pickBank_held b hold
      | false =>
        have busy : (s.bank b).closeEnded.free = false := by
          rw [opened]
          simp [BankCtl.free, current]
        have same : ((s.modBank b BankCtl.closeEnded).bank b).pick = (s.modBank b BankCtl.closeEnded).bank b :=
          BankCtl.pick_busy (by rwa [State.bank_modBank_same])
        rw [State.pickBank_lifted b (by exact hold)]
        exact congrArg (fun x => { s.modBank b BankCtl.closeEnded with banks := x })
          ((congrArg _ same).trans (Four.set_get _ _))
    rw [exec_rowCloseEnd high closing, stays, State.testHeld_open (State.heldClosed_busy (b := b) (by
      rw [State.bank_modBank_same, opened]
      simp)), next]
  · have idle : (s.bank b).closeEnded = { s.bank b with state := .idle } := BankCtl.closeEnded_none none
    have next : s.modBank b BankCtl.closeEnded = { s with banks := s.banks.set b { s.bank b with state := .idle } } :=
      congrArg (fun k => { s with banks := s.banks.set b k }) idle
    rw [exec_rowCloseEnd high closing, exec_bankPick (by exact high), State.testHeld_open (State.heldClosed_lifted (by
      rw [State.pickBank_frame]
      exact lifted)), next]
  · intro others idle
    have closed : (s.bank b).closeEnded = { s.bank b with state := .idle } := BankCtl.closeEnded_none none
    have next : s.modBank b BankCtl.closeEnded = idle := congrArg (fun k => { s with banks := s.banks.set b k }) closed
    have ends : exec (.rowCloseEnd b) s = .next idle.testHeld := by
      rw [exec_rowCloseEnd high closing, next, State.pickBank_held b (by exact hold)]
    have here : idle.bank b = { s.bank b with state := .idle } := Four.get_set_same _ _ _
    have there {d : Bank} (other : d ≠ b) : idle.bank d = s.bank d := Four.get_set_other _ _ other
    have allClosed (free : s.refresh.refreshing = false) (all : others) : idle.heldClosed = true :=
      State.heldClosed_iff.2 ⟨hold, free, fun d => by
        by_cases same : d = b
        · subst same
          rw [here]
          exact ⟨rfl, none⟩
        · rw [there same]
          exact all d same⟩
    refine ⟨fun free active all => ?_, fun free entering notYet all => ?_, fun busy => ?_⟩
    · have banks : idle.banks.map (fun k => { k with state := BankState.refreshing }) =
          s.banks.map (fun k => { k with state := BankState.refreshing }) := by
        refine Four.eq_of_get (fun d => ?_)
        rw [Four.get_map, Four.get_map]
        by_cases same : d = b
        · subst same
          exact congrArg (fun k : BankCtl => { k with state := BankState.refreshing }) here
        · exact congrArg (fun k : BankCtl => { k with state := BankState.refreshing }) (there same)
      rw [ends, State.testHeld_active (by exact active), if_pos (allClosed free all), State.beginRefresh, banks]
    · rw [ends, State.testHeld_entering (by exact entering) (allClosed free all) (by exact notYet)]
    · rw [ends, State.testHeld_open (Bool.eq_false_iff.2 (fun closed => busy (fun d other => ?_)))]
      have := (State.heldClosed_iff.1 closed).2.2 d
      rwa [there other] at this
  · rw [exec_rowOpenEnd high]
    refine congrArg (fun k => Host.Outcome.next { s with banks := s.banks.set b k }) ?_
    exact BankCtl.openEnded_opening opening current

/-! ### The end of an access at its bank (R91, R96) -/

theorem BankCtl.afterAccess_closes {k : BankCtl} {row : Nat} {hold : Bool} {page : PagePolicy}
    (onRow : k.state = .accessing row) (closes : hold = true ∨ k.queue = [] ∧ page = .closed) :
    k.afterAccess hold page = { k with state := .closing row, current := none } := by
  rw [BankCtl.afterAccess, onRow]
  refine if_pos ?_
  obtain rfl | ⟨empty, rfl⟩ := closes
  · rfl
  · rw [empty]
    simp

theorem BankCtl.afterAccess_ready {k : BankCtl} {row : Nat} {page : PagePolicy} (onRow : k.state = .accessing row)
    (stays : k.queue = [] → page = .opened) :
    k.afterAccess false page = { k with state := .ready row, current := none } := by
  rw [BankCtl.afterAccess, onRow]
  refine if_neg (fun closes => ?_)
  obtain ⟨empty, closed⟩ := by simpa using closes
  rw [stays empty] at closed
  cases closed

theorem State.endAtBank_held {b : Bank} {s : State} (hold : s.refresh.hold = true) :
    s.endAtBank b = s.modBank b (BankCtl.afterAccess true s.table.settings.page) := by
  unfold State.endAtBank
  rw [hold]
  exact State.pickBank_held b hold

theorem State.endAtBank_lifted {b : Bank} {s : State} (lifted : s.refresh.hold = false) :
    s.endAtBank b =
      { s with banks := s.banks.set b ((s.bank b).afterAccess false s.table.settings.page).pick } := by
  unfold State.endAtBank
  rw [lifted]
  refine (State.pickBank_lifted b (by exact lifted)).trans ?_
  simp only [State.modBank, Four.get_set_same, Four.set_set]
  rfl

/-- Settles O28. -/
theorem bankGoesOnAfterAnAccess : Obligations.BankGoesOnAfterAnAccess := by
  unfold Obligations.BankGoesOnAfterAnAccess
  intro b s row onRow closing ready
  refine ⟨fun hold => ?_, fun lifted empty page => ?_, fun lifted empty page => ?_, fun lifted waiting high => ?_⟩
  · rw [State.endAtBank_held hold]
    exact congrArg (fun k => { s with banks := s.banks.set b k }) (BankCtl.afterAccess_closes onRow (.inl rfl))
  · rw [State.endAtBank_lifted lifted, BankCtl.afterAccess_closes onRow (.inr ⟨empty, page⟩), BankCtl.pick_empty (by exact empty)]
  · rw [State.endAtBank_lifted lifted, BankCtl.afterAccess_ready onRow (fun _ => page), BankCtl.pick_empty (by exact empty)]
  · rw [State.endAtBank_lifted lifted, BankCtl.afterAccess_ready onRow (fun empty => absurd empty waiting),
      exec_bankPick (by exact high), State.pickBank_lifted b (by exact lifted)]
    simp only [State.modBank, ready, Four.get_set_same, Four.set_set]

end Sys2Proof.Machine

namespace Sys2Proof.Machine

/-! ### What the configuration's decisions leave of banks and Refresh Controller -/

/-- The banks stay, and so does the Refresh Controller but for the quiesce votes. -/
structure SameBanks (s t : State) : Prop where
  banks : t.banks = s.banks
  refresh : t.refresh = { s.refresh with votes := t.refresh.votes }

theorem SameBanks.rfl' (s : State) : SameBanks s s := ⟨rfl, rfl⟩

theorem SameBanks.trans {s t u : State} (h : SameBanks s t) (k : SameBanks t u) : SameBanks s u :=
  ⟨k.banks.trans h.banks, k.refresh.trans (by rw [h.refresh])⟩

theorem SameBanks.of {s t : State} (banks : t.banks = s.banks) (refresh : t.refresh = s.refresh) : SameBanks s t :=
  ⟨banks, by rw [refresh]⟩

theorem SameBanks.foldl {α : Type} {f : State → α → State} (one : ∀ t x, SameBanks t (f t x)) (l : List α) (s : State) :
    SameBanks s (l.foldl f s) := by
  induction l generalizing s with
  | nil => exact .rfl' s
  | cons x rest ih => exact (one s x).trans (ih _)

theorem SameBanks.raise (p : Port) (e : Event) (s : State) : SameBanks s (s.raise p e) := by
  rw [State.raise_frame]
  exact ⟨rfl, rfl⟩

theorem SameBanks.raiseAll (e : Event) (s : State) : SameBanks s (s.raiseAll e) := .foldl (fun t p => .raise p e t) _ s

theorem SameBanks.raiseOthers (p : Port) (e : Event) (s : State) : SameBanks s (s.raiseOthers p e) :=
  .foldl (fun t q => .raise q e t) _ s

theorem SameBanks.replyHeld (kind : Byte) (body : RespBody) (held : List (Port × Tag)) (s : State) :
    SameBanks s (s.replyHeld kind body held) :=
  .foldl (f := fun t (x : Port × Tag) => t.reply x.1 kind x.2 body) (fun _ _ => ⟨rfl, rfl⟩) held s

theorem SameBanks.answerCommits (body : RespBody) (s : State) : SameBanks s (s.answerCommits body) :=
  (show SameBanks s (s.modConfig (fun k => { k with commits := Four.all none, heldCommits := [] })) from ⟨rfl, rfl⟩).trans
    (.replyHeld _ _ _ _)

theorem SameBanks.testRun (s : State) : SameBanks s s.testRun := by
  unfold State.testRun
  split
  · exact ((show SameBanks s (s.modConfig (fun k => { k with state := .run })) from ⟨rfl, rfl⟩).trans
      (.answerCommits _ _)).trans (.raiseAll _ _)
  · exact .rfl' s

theorem SameBanks.decideCommit (s : State) : SameBanks s s.decideCommit := by
  unfold State.decideCommit
  split
  · exact .answerCommits _ s
  · exact (show SameBanks s (s.modConfig (fun k => { k with state := .committing })) from ⟨rfl, rfl⟩).trans (.testRun _)

theorem SameBanks.testDrain (s : State) : SameBanks s s.testDrain := by
  unfold State.testDrain
  split
  · rw [State.endDrain_eq]
    have drained : SameBanks s
        { s with
          park := [], watches := []
          config := { s.config with state := .setup, reopenVotes := Four.all false, heldReopens := [] }
          refresh := { s.refresh with votes := Four.all false } } := ⟨rfl, rfl⟩
    have withdrawn (t : State) (e : ParkEntry) : SameBanks t (s.withdrawOne t e) := by
      unfold State.withdrawOne
      split <;> exact ⟨rfl, rfl⟩
    exact ((drained.trans (.foldl withdrawn _ _)).trans (.replyHeld _ _ _ _)).trans (.raiseAll _ _)
  · exact .rfl' s

theorem SameBanks.testQuorums (s : State) : SameBanks s s.testQuorums := by
  unfold State.testQuorums
  split
  · split
    · exact .decideCommit s
    · exact .rfl' s
  · split
    · exact (show SameBanks s (s.modConfig (fun k => { k with state := .draining })) from ⟨rfl, rfl⟩).trans (.testDrain _)
    · exact .rfl' s
  · exact .rfl' s
  · exact .rfl' s

theorem SameBanks.testConfig (s : State) : SameBanks s s.testConfig := by
  unfold State.testConfig
  split
  · exact .testQuorums s
  · exact .testQuorums s
  · exact .testRun s
  · exact .testDrain s

theorem SameBanks.leaveClearing (p : Port) (s : State) : SameBanks s (s.leaveClearing p) := by
  unfold State.leaveClearing
  split
  · exact ((show SameBanks s ((s.modHpu p (fun h => { h with heldJoin := none })).goUp p) from ⟨rfl, rfl⟩).trans
      (.raiseOthers p _ _)).trans ⟨rfl, rfl⟩
  · exact ⟨rfl, rfl⟩

theorem SameBanks.opportunity {s t : State} (h : SameBanks s t) : t.Opportunity ↔ s.Opportunity := by
  unfold State.Opportunity State.bank
  rw [h.banks, h.refresh]

/-! ### A bank with a row stays one through a walk -/

/-- A bank is READY, closing a row, or performing an access. -/
def BankCtl.Rowed (k : BankCtl) : Prop := ∃ row, k.state = .ready row ∨ k.state = .closing row ∨ k.state = .accessing row

theorem BankCtl.Rowed.notIdle {k : BankCtl} (rowed : k.Rowed) : k.state ≠ .idle := by
  obtain ⟨row, h | h | h⟩ := rowed <;> simp [h]

theorem BankCtl.Rowed.pick {k : BankCtl} (rowed : k.Rowed) : k.pick.Rowed := by
  obtain same | ⟨a, rest, free, -, picked⟩ := BankCtl.pick_cases k
  · rwa [same]
  · rw [picked]
    obtain ⟨row, ready | closing | accessing⟩ := rowed
    · simp only [stateForPick, ready, BankCtl.Rowed]
      split
      · exact ⟨row, .inr (.inr rfl)⟩
      · exact ⟨row, .inr (.inl rfl)⟩
    · exact ⟨row, .inr (.inl (by simp [stateForPick, closing]))⟩
    · exact ⟨row, .inr (.inr (by simp [stateForPick, accessing]))⟩

theorem BankCtl.Rowed.holdPlaced {k : BankCtl} (rowed : k.Rowed) : k.holdPlaced.Rowed := by
  unfold BankCtl.holdPlaced
  split
  · rename_i row _
    exact ⟨row, .inr (.inl rfl)⟩
  · exact rowed

theorem State.rowed_enqueue {b : Bank} {s : State} (a : Access) (rowed : (s.bank b).Rowed) : ((s.enqueue a).bank b).Rowed := by
  have joined (k : BankCtl) (l : List Access) (h : k.Rowed) : ({ k with queue := l } : BankCtl).Rowed := h
  by_cases same : b = bankOf a.cell
  · subst same
    have bank : ((s.enqueue a).bank (bankOf a.cell)) = if s.refresh.hold then _ else BankCtl.pick _ :=
      State.enqueue_bank (a := { a with bypass := 0 }) (s := s) rfl
    rw [bank]
    split
    · exact joined _ _ rowed
    · exact (joined _ _ rowed).pick
  · rw [State.enqueue_frame, State.bank_set rfl, if_neg same]
    exact rowed

theorem State.rowed_testHeld {b : Bank} {s : State} (rowed : (s.bank b).Rowed) : (s.testHeld.bank b).Rowed := by
  rw [State.testHeld_open (State.heldClosed_busy (b := b) (fun closed => rowed.notIdle closed.1))]
  exact rowed

theorem State.rowed_testRetention {b : Bank} {s : State} (rowed : (s.bank b).Rowed) : (s.testRetention.bank b).Rowed := by
  unfold State.testRetention
  split
  · unfold State.enterRetention
    simp only
    split
    · exact State.rowed_testHeld rowed
    · refine State.rowed_testHeld ?_
      rw [State.bank_map (s := s) rfl]
      exact rowed.holdPlaced
  · exact rowed

theorem SameBanks.bank {s t : State} (h : SameBanks s t) (b : Bank) : t.bank b = s.bank b := by
  rw [State.bank, h.banks]
  rfl

theorem State.rowed_completeTeardown {b : Bank} {s : State} (p : Port) (rowed : (s.bank b).Rowed) :
    ((s.completeTeardown p).bank b).Rowed := by
  unfold State.completeTeardown
  split
  · exact rowed
  · rename_i r _
    have dropped (t : State) : SameBanks t { t with teardown := t.teardown.set p none } := ⟨rfl, rfl⟩
    have same := (((SameBanks.raiseOthers p (.portCleared p r.restored r.released r.held) s).trans (dropped _)).trans
      (.leaveClearing p _)).trans (.testQuorums _)
    exact State.rowed_testRetention (by rwa [same.bank])

theorem State.rowed_walkCells {b : Bank} {s : State} (p : Port) (l : List CellIx) (rowed : (s.bank b).Rowed) :
    ((walkCells p l s).bank b).Rowed := by
  induction l generalizing s with
  | nil => exact State.rowed_completeTeardown p rowed
  | cons c rest ih =>
    unfold walkCells
    split
    · exact ih rowed
    · exact State.rowed_enqueue (s := s.modTeardown p _) _ rowed
    · exact State.rowed_enqueue (s := s.modTeardown p _) _ rowed

theorem State.rowed_walk {b : Bank} {s : State} (p : Port) (rowed : (s.bank b).Rowed) : ((s.walk p).bank b).Rowed :=
  State.rowed_walkCells (s := s.modTeardown p _) p _ rowed

theorem BankCtl.Rowed.afterAccess {k : BankCtl} {row : Nat} (onRow : k.state = .accessing row) (hold : Bool) (page : PagePolicy) :
    (k.afterAccess hold page).Rowed := by
  unfold BankCtl.afterAccess
  rw [onRow]
  simp only
  split
  · exact ⟨row, .inr (.inl rfl)⟩
  · exact ⟨row, .inl rfl⟩

theorem State.rowed_endAtBank {b : Bank} {s : State} {row : Nat} (onRow : (s.bank b).state = .accessing row) :
    ((s.endAtBank b).bank b).Rowed := by
  cases hold : s.refresh.hold with
  | true =>
    rw [State.endAtBank_held hold, State.bank_modBank_same]
    exact .afterAccess onRow _ _
  | false =>
    rw [State.endAtBank_lifted hold, State.bank_set rfl, if_pos rfl]
    exact (BankCtl.Rowed.afterAccess onRow _ _).pick

/-! ### What is due, as the manual says it -/

theorem State.walkDue_iff {s : State} {p : Port} :
    s.walkDue p = true ↔ ∃ r, s.teardown.get p = some r ∧ r.phase = .awaiting ∧ ∀ d, r.awaited.get d = false := by
  unfold State.walkDue
  split
  · rename_i r record
    rw [Bool.and_eq_true, Four.all_toList]
    simp [record]
  · rename_i record
    simp [record]

/-- Whether the configuration's test is due: a decision with its quorum, the step to RUN, or the end of the drain. -/
theorem State.configDue_iff {s : State} :
    s.configDue = true ↔
      (s.config.state = .setup ∧ s.Agreed (fun p => s.config.commits.get p = some s.table.generation) ∨
        s.config.state = .run ∧ s.Agreed (fun p => s.config.reopenVotes.get p = true)) ∨
      (s.config.state = .committing ∧ s.config.inits = []) ∨
      (s.config.state = .draining ∧ ∀ b, ∀ a ∈ (s.bank b).queue ++ (s.bank b).current.toList, a.isHost = false) := by
  rw [← State.commitQuorum_iff, ← State.reopenQuorum_iff, ← State.runDue_iff, ← State.drainDue_iff]
  unfold State.configDue State.runDue State.drainDue
  cases s.config.state <;> simp

/-- With no walk due, a configuration decision and then the opportunistic refresh are taken as listed. -/
theorem State.settle_noWalk {s : State} (none : ∀ p, s.walkDue p = false) :
    s.settle =
      ((if s.configDue then [Act.config] else []) ++ (if s.opportunityDue then [Act.refresh] else [])).foldl
        (fun s a => a.run s) s := by
  have noWalks : allFour.filter s.walkDue = [] := List.filter_eq_nil_iff.2 (fun p _ => by simp [none p])
  have noneDue : allFour.any s.walkDue = false := by simp [none]
  have due : s.dueActs = (if s.configDue then [Act.config] else []) ++ (if s.opportunityDue then [Act.refresh] else []) := by
    rw [State.dueActs, noWalks]
    rfl
  rw [State.settle, noneDue, due]
  rfl

/-- The acts due when one walk is, and no decision. -/
theorem State.dueActs_oneWalk {s : State} {p : Port} (walk : s.walkDue p = true) (others : ∀ q, q ≠ p → s.walkDue q = false)
    (config : s.configDue = false) :
    s.dueActs = Act.walk p :: if s.opportunityDue then [Act.refresh] else [] := by
  have one : allFour.filter s.walkDue = [p] := by
    have only : s.walkDue = fun q => q == p := funext (fun q => by
      by_cases same : q = p
      · rw [same, walk, beq_self_eq_true]
      · rw [others q same]
        simpa using same)
    rw [only]
    fin_cases p <;> rfl
  rw [State.dueActs, one, config]
  rfl

end Sys2Proof.Machine

namespace Sys2Proof.Machine

/-! ### What follows the end of an access (R90, R91, R103, R162) -/

/-- The state in which the bank has gone on and is awaited no more. -/
def State.bankEnded (b : Bank) (s : State) : State :=
  { s.endAtBank b with
    teardown := s.teardown.map (fun x => x.map (fun r => { r with awaited := r.awaited.set b false })) }

theorem State.finishAccess_eq (b : Bank) (s : State) : s.finishAccess b = (s.bankEnded b).settle := by
  unfold State.finishAccess State.noteEnded State.bankEnded
  rw [State.endAtBank_frame]

theorem State.bankEnded_frame (b : Bank) (s : State) :
    s.bankEnded b =
      { s with banks := (s.bankEnded b).banks, teardown := (s.bankEnded b).teardown } := by
  unfold State.bankEnded
  rw [State.endAtBank_frame]

/-- An opportunistic refresh at a bank with a row places the hold and waits. -/
theorem State.testOpportunity_rowed {b : Bank} {s : State} (rowed : (s.bank b).Rowed) :
    s.testOpportunity = if s.opportunityDue then s.holdBanks else s := by
  unfold State.testOpportunity
  split
  · rename_i due
    exact State.placeHold_waits (.inl ⟨b, fun closed => rowed.notIdle closed.1⟩)
  · rfl

/-- A decision leaves what an opportunistic refresh is tested on. -/
theorem State.settle_decides {b : Bank} {s : State} (none : ∀ p, s.walkDue p = false) (due : s.configDue = true)
    (rowed : (s.bank b).Rowed) :
    (¬s.Opportunity → s.settle = s.testConfig) ∧ (s.Opportunity → s.settle = s.testConfig.holdBanks) := by
  rw [State.settle_noWalk none, due]
  refine ⟨fun no => ?_, fun opportunity => ?_⟩
  · rw [Bool.eq_false_iff.2 (fun h => no (State.opportunityDue_iff.1 h))]
    rfl
  · rw [State.opportunityDue_iff.2 opportunity]
    change s.testConfig.testOpportunity = _
    have same := SameBanks.testConfig s
    rw [State.testOpportunity_rowed (b := b) (by rwa [same.bank]),
      if_pos (State.opportunityDue_iff.2 (same.opportunity.2 opportunity))]

theorem freeOrder_pair (n : Nat) (x y : Act) : freeOrder n [x, y] = [x, y] ∨ freeOrder n [x, y] = [y, x] := by
  simp only [freeOrder, inKeyOrder, List.foldr_cons, List.foldr_nil, insertByKey]
  split
  · exact .inl rfl
  · exact .inr rfl

theorem Act.run_walk {s t : State} {p : Port} (walk : s.walkDue p = true) (same : t.teardown = s.teardown) :
    (Act.walk p).run t = t.walk p := by
  refine if_pos ?_
  rw [State.walkDue_iff, same, ← State.walkDue_iff]
  exact walk

/-- One walk, taken alone. -/
theorem State.settle_walkAlone {s : State} {p : Port} (walk : s.walkDue p = true)
    (others : ∀ q, q ≠ p → s.walkDue q = false) (config : s.configDue = false) (no : ¬s.Opportunity) :
    s.settle = s.walk p := by
  have due := State.dueActs_oneWalk walk others config
  rw [Bool.eq_false_iff.2 (fun h => no (State.opportunityDue_iff.1 h))] at due
  rw [State.settle, due, show allFour.any s.walkDue = true from List.any_eq_true.2 ⟨p, mem_allFour p, walk⟩]
  exact Act.run_walk walk rfl

/-- One walk and an opportunistic refresh, in either order. -/
theorem State.settle_walkAndRefresh {b : Bank} {s : State} {p : Port} (walk : s.walkDue p = true)
    (others : ∀ q, q ≠ p → s.walkDue q = false) (config : s.configDue = false) (rowed : (s.bank b).Rowed)
    (opportunity : s.Opportunity) :
    let chosen : State := { s with choices := s.choices + 1 }
    s.settle = chosen.holdBanks.walk p ∨ s.settle = chosen.walk p ∨ s.settle = (chosen.walk p).holdBanks := by
  intro chosen
  have due := State.dueActs_oneWalk walk others config
  have any : allFour.any s.walkDue = true := List.any_eq_true.2 ⟨p, mem_allFour p, walk⟩
  rw [State.opportunityDue_iff.2 opportunity] at due
  have settled : s.settle = (freeOrder s.choices [Act.walk p, Act.refresh]).foldl (fun s a => a.run s) chosen := by
    rw [State.settle, due, any]
    rfl
  rw [settled]
  obtain walkFirst | refreshFirst := freeOrder_pair s.choices (.walk p) .refresh
  · have taken : [Act.walk p, Act.refresh].foldl (fun s a => a.run s) chosen = ((Act.walk p).run chosen).testOpportunity := rfl
    rw [walkFirst, taken, Act.run_walk (t := chosen) walk rfl,
      State.testOpportunity_rowed (b := b) (State.rowed_walk (s := chosen) p rowed)]
    split
    · exact .inr (.inr rfl)
    · exact .inr (.inl rfl)
  · have taken : [Act.refresh, Act.walk p].foldl (fun s a => a.run s) chosen = (Act.walk p).run chosen.testOpportunity := rfl
    rw [refreshFirst, taken, State.testOpportunity_rowed (b := b) (s := chosen) rowed,
      if_pos (State.opportunityDue_iff.2 (show chosen.Opportunity from opportunity)),
      Act.run_walk (t := chosen.holdBanks) walk rfl]
    exact .inl rfl

/-- Settles O29. -/
theorem whatFollowsTheEndOfAnAccess : Obligations.WhatFollowsTheEndOfAnAccess := by
  unfold Obligations.WhatFollowsTheEndOfAnAccess
  intro b s row high onRow ended walks toRun drained decided refreshes held
  have finish : s.finishAccess b = ended.settle := State.finishAccess_eq b s
  have frame : ended = { s with banks := ended.banks, teardown := ended.teardown } := State.bankEnded_frame b s
  have rowed : (ended.bank b).Rowed := State.rowed_endAtBank onRow
  have high' : ended.resetHigh = true := by
    rw [frame]
    exact high
  have choices : ended.choices = s.choices := by rw [frame]
  have opportunity : ended.Opportunity ↔ refreshes := by
    unfold State.Opportunity
    rw [show ended.refresh = s.refresh by rw [frame]]
  have due : ended.configDue = true ↔ decided ∨ toRun ∨ drained := by
    rw [State.configDue_iff]
    unfold State.Agreed State.hpu
    rw [show ended.config = s.config by rw [frame], show ended.table = s.table by rw [frame],
      show ended.hpus = s.hpus by rw [frame]]
    refine or_congr_left ?_
    constructor
    · rintro (⟨state, up, all⟩ | ⟨state, up, all⟩)
      · exact ⟨up, .inl ⟨state, all⟩⟩
      · exact ⟨up, .inr ⟨state, all⟩⟩
    · rintro ⟨up, ⟨state, all⟩ | ⟨state, all⟩⟩
      · exact .inl ⟨state, up, all⟩
      · exact .inr ⟨state, up, all⟩
  have noWalk {p : Port} (no : ¬walks p) : ended.walkDue p = false :=
    Bool.eq_false_iff.2 (fun h => no (State.walkDue_iff.1 h))
  have undecided (undecided : ¬decided) (run : ¬toRun) (drain : ¬drained) : ended.configDue = false :=
    Bool.eq_false_iff.2 (fun h => (due.1 h).elim undecided (fun h => h.elim run drain))
  have config : ended.config = s.config := by rw [frame]
  rw [finish]
  refine ⟨State.settle_falls high', fun unmade => ⟨fun none => ⟨fun run drain no => ?_, fun run drain yes => ?_,
    fun run => ⟨ended.testConfig, ?_, fun no => ?_, fun yes => ?_⟩,
    fun drain => ⟨ended.testConfig, ?_, fun no => ?_, fun yes => ?_⟩⟩, fun p walk others run drain => ?_⟩⟩
  · exact State.settle_quiet (fun p => noWalk (none p)) (undecided unmade run drain)
      (Bool.eq_false_iff.2 (fun h => no (opportunity.1 (State.opportunityDue_iff.1 h))))
  · rw [State.settle_noWalk (fun p => noWalk (none p)), undecided unmade run drain,
      State.opportunityDue_iff.2 (opportunity.2 yes)]
    change ended.testOpportunity = _
    rw [State.testOpportunity_rowed rowed, if_pos (State.opportunityDue_iff.2 (opportunity.2 yes))]
    rfl
  · rw [exec_stepToRun high', State.testConfig, config, run.1]
  · exact (State.settle_decides (fun p => noWalk (none p)) (due.2 (.inr (.inl run))) rowed).1 (fun h => no (opportunity.1 h))
  · exact (State.settle_decides (fun p => noWalk (none p)) (due.2 (.inr (.inl run))) rowed).2 (opportunity.2 yes)
  · rw [exec_drainEnd high', State.testConfig, config, drain.1]
  · exact (State.settle_decides (fun p => noWalk (none p)) (due.2 (.inr (.inr drain))) rowed).1 (fun h => no (opportunity.1 h))
  · exact (State.settle_decides (fun p => noWalk (none p)) (due.2 (.inr (.inr drain))) rowed).2 (opportunity.2 yes)
  · have walkDue : ended.walkDue p = true := State.walkDue_iff.2 walk
    have only (q : Port) (other : q ≠ p) : ended.walkDue q = false := noWalk (others q other)
    have starts (t : State) (high : t.resetHigh = true) (same : t.teardown = ended.teardown) :
        exec (.teardownWalkStart p) t = .next (t.walk p) := by
      rw [exec_teardownWalkStart high, if_pos]
      rw [State.walkDue_iff, same, ← State.walkDue_iff]
      exact walkDue
    refine ⟨fun no => ?_, fun yes => ?_⟩
    · rw [State.settle_walkAlone walkDue only (undecided unmade run drain) (fun h => no (opportunity.1 h)),
        starts ended high' rfl]
    · intro chosen
      have same : chosen = { ended with choices := ended.choices + 1 } := by rw [choices]
      have choice := State.settle_walkAndRefresh walkDue only (undecided unmade run drain) rowed (opportunity.2 yes)
      simp only [← same] at choice
      obtain first | rests | later := choice
      · exact .inl ((starts (held chosen) high' rfl).trans (congrArg _ first.symm))
      · exact .inr ⟨_, starts chosen high' rfl, .inl rests⟩
      · exact .inr ⟨_, starts chosen high' rfl, .inr later⟩

end Sys2Proof.Machine

namespace Sys2Proof.Machine

/-! ### What settles after a departure leaves the departed port alone (R160 to R162) -/

/-- A port that has departed: it holds nothing, no host access of it is queued, and no JOIN of it is held. -/
structure State.Gone (p : Port) (s : State) : Prop where
  absent : s.Absent p
  notUp : (s.hpu p).port ≠ .up
  noJoin : (s.hpu p).heldJoin = none
  queued : ∀ b, ∀ a ∈ (s.bank b).queue, a.port = p → a.isHost = false

/-- A departed port stays departed; its HPU keeps all but its port state, and every event queue is only added to. -/
structure AfterLoss (p : Port) (s t : State) : Prop where
  gone : t.Gone p
  hpu : t.hpu p = { s.hpu p with port := (t.hpu p).port }
  grows : ∀ q, ∃ more, (t.eventPort q).queue = (s.eventPort q).queue ++ more

section
variable {p : Port} {s : State}

theorem AfterLoss.rfl' (gone : s.Gone p) : AfterLoss p s s := ⟨gone, rfl, fun _ => ⟨[], (List.append_nil _).symm⟩⟩

theorem AfterLoss.trans {t u : State} (h : AfterLoss p s t) (k : AfterLoss p t u) : AfterLoss p s u where
  gone := k.gone
  hpu := by
    rw [k.hpu, h.hpu]
  grows q := by
    obtain ⟨more, first⟩ := h.grows q
    obtain ⟨later, second⟩ := k.grows q
    exact ⟨more ++ later, by rw [second, first, List.append_assoc]⟩

/-- A change that the departed port gains nothing by, that leaves its HPU, and queues no host access of it. -/
theorem AfterLoss.of {t : State} (gone : s.Gone p) (gain : NoGain p s t) (hpu : t.hpu p = s.hpu p)
    (queued : ∀ b, ∀ a ∈ (t.bank b).queue, a ∈ (s.bank b).queue ∨ a.isHost = false)
    (grows : ∀ q, ∃ more, (t.eventPort q).queue = (s.eventPort q).queue ++ more) : AfterLoss p s t where
  gone :=
    ⟨gone.absent.noGain gain, hpu ▸ gone.notUp, hpu ▸ gone.noJoin, fun b a ha own =>
      (queued b a ha).elim (fun old => gone.queued b a old own) id⟩
  hpu := by rw [hpu]
  grows := grows

/-- A change outside events and banks that the departed port gains nothing by. -/
theorem AfterLoss.apart {t : State} (gone : s.Gone p) (gain : NoGain p s t) (hpu : t.hpu p = s.hpu p)
    (banks : t.banks = s.banks) (events : t.events = s.events) : AfterLoss p s t :=
  .of gone gain hpu (fun b a ha => .inl (by rwa [State.bank, banks] at ha))
    (fun q => ⟨[], by rw [State.eventPort, events, List.append_nil]; rfl⟩)

theorem AfterLoss.foldl {α : Type} {f : State → α → State} {l : List α}
    (one : ∀ t, ∀ x ∈ l, t.Gone p → AfterLoss p t (f t x)) (gone : s.Gone p) : AfterLoss p s (l.foldl f s) := by
  induction l generalizing s with
  | nil => exact .rfl' gone
  | cons x rest ih =>
    have first := one s x List.mem_cons_self gone
    exact first.trans (ih (fun t y hy => one t y (List.mem_cons_of_mem _ hy)) first.gone)

theorem EventPort.take_grows (e : Event) (q : EventPort) : ∃ more, (q.take e).queue = q.queue ++ more := by
  unfold EventPort.take
  simp only
  split
  · exact ⟨_, rfl⟩
  · exact ⟨[], (List.append_nil _).symm⟩

theorem AfterLoss.raise (q : Port) (e : Event) (gone : s.Gone p) : AfterLoss p s (s.raise q e) := by
  by_cases up : (s.hpu q).port = .up
  · have other : p ≠ q := fun same => gone.notUp (same ▸ up)
    have port : (s.raise q e).eventPort p = s.eventPort p := by
      rw [State.raise_up e up, State.eventPort, Four.get_set_other _ _ other]
      rfl
    rw [State.raise_up e up] at port ⊢
    refine .of gone ⟨id, id, by rw [port]; exact id, by rw [port]; exact id, id, id, id, id, id⟩ rfl
      (fun _ _ ha => .inl ha) (fun r => ?_)
    change ∃ more, ((s.events.set q ((s.eventPort q).take e)).get r).queue = _
    rw [Four.get_set]
    split
    · rename_i same
      subst same
      exact EventPort.take_grows e _
    · exact ⟨[], (List.append_nil _).symm⟩
  · rw [State.raise_absent e up]
    exact .rfl' gone

theorem AfterLoss.raiseAll (e : Event) (gone : s.Gone p) : AfterLoss p s (s.raiseAll e) :=
  .foldl (fun _ _ _ h => .raise _ _ h) gone

theorem AfterLoss.raiseOthers (q : Port) (e : Event) (gone : s.Gone p) : AfterLoss p s (s.raiseOthers q e) :=
  .foldl (fun _ _ _ h => .raise _ _ h) gone

theorem AfterLoss.reply {q : Port} (other : q ≠ p) (kind : Byte) (t : Tag) (body : RespBody) (gone : s.Gone p) :
    AfterLoss p s (s.reply q kind t body) :=
  .apart gone (.same rfl rfl rfl rfl rfl rfl) (State.hpu_modHpu_other s _ (Ne.symm other)) rfl rfl

theorem AfterLoss.replyHeld {kind : Byte} {body : RespBody} {held : List (Port × Tag)} (others : ∀ x ∈ held, x.1 ≠ p)
    (gone : s.Gone p) : AfterLoss p s (s.replyHeld kind body held) :=
  .foldl (f := fun t (x : Port × Tag) => t.reply x.1 kind x.2 body) (fun _ x hx h => .reply (others x hx) _ _ _ h) gone

theorem State.Absent.commits (absent : s.Absent p) : ∀ x ∈ s.config.heldCommits, x.1 ≠ p := fun x hx =>
  absent.heldRequests x (List.mem_append_left _ (List.mem_append_right _ hx))

theorem State.Absent.reopens (absent : s.Absent p) : ∀ x ∈ s.config.heldReopens, x.1 ≠ p := fun x hx =>
  absent.heldRequests x (List.mem_append_right _ hx)

theorem AfterLoss.setState (st : CfgState) (gone : s.Gone p) :
    AfterLoss p s { s with config := { s.config with state := st } } :=
  .apart gone ⟨id, id, id, id, id, id, id, id, id⟩ rfl rfl rfl

theorem AfterLoss.answerCommits (body : RespBody) (gone : s.Gone p) : AfterLoss p s (s.answerCommits body) := by
  have cleared : AfterLoss p s (s.modConfig (fun k => { k with commits := Four.all none, heldCommits := [] })) :=
    .apart gone ⟨id, id, id, id, id, id, id, fun _ => Four.get_all _ _,
      fun h x hx => h x (List.mem_append_right _ hx)⟩ rfl rfl rfl
  exact cleared.trans (.replyHeld gone.absent.commits cleared.gone)

theorem AfterLoss.testRun (gone : s.Gone p) : AfterLoss p s s.testRun := by
  unfold State.testRun
  split
  · have run := AfterLoss.setState .run gone
    have answered := run.trans (.answerCommits .ok run.gone)
    exact answered.trans (.raiseAll .running answered.gone)
  · exact .rfl' gone

theorem AfterLoss.decideCommit (gone : s.Gone p) : AfterLoss p s s.decideCommit := by
  cases pair : s.table.overlapPair with
  | none =>
    rw [State.decideCommit_apart pair]
    have committing := AfterLoss.setState .committing gone
    exact committing.trans (.testRun committing.gone)
  | some x =>
    have answers : s.decideCommit = s.answerCommits (.overlap x.1 x.2) := by rw [State.decideCommit, pair]
    rw [answers]
    exact .answerCommits _ gone

theorem AfterLoss.testDrain (gone : s.Gone p) : AfterLoss p s s.testDrain := by
  unfold State.testDrain
  split
  · rw [State.endDrain_eq]
    have drained : AfterLoss p s
        { s with
          park := [], watches := []
          config := { s.config with state := .setup, reopenVotes := Four.all false, heldReopens := [] }
          refresh := { s.refresh with votes := Four.all false } } :=
      .apart gone ⟨fun _ _ h => absurd h List.not_mem_nil, fun _ _ h => absurd h List.not_mem_nil, id, id,
        fun _ => Four.get_all _ _, id, fun _ => Four.get_all _ _, id,
        fun h x hx => h x (List.mem_append_left _ (by simpa using hx))⟩ rfl rfl rfl
    have withdrawn := drained.trans (.foldl (f := s.withdrawOne) (l := s.park) (fun t e he h => by
      unfold State.withdrawOne
      split
      · exact .reply (gone.absent.park e he) _ _ _ h
      · exact .rfl' h) drained.gone)
    have answered := withdrawn.trans (.replyHeld (kind := 0x91) (body := .ok) gone.absent.reopens withdrawn.gone)
    exact answered.trans (.raiseAll .reconfigured answered.gone)
  · exact .rfl' gone

theorem AfterLoss.testQuorums (gone : s.Gone p) : AfterLoss p s s.testQuorums := by
  unfold State.testQuorums
  split
  · split
    · exact .decideCommit gone
    · exact .rfl' gone
  · split
    · have draining := AfterLoss.setState .draining gone
      exact draining.trans (.testDrain draining.gone)
    · exact .rfl' gone
  · exact .rfl' gone
  · exact .rfl' gone

theorem AfterLoss.testConfig (gone : s.Gone p) : AfterLoss p s s.testConfig := by
  unfold State.testConfig
  split
  · exact .testQuorums gone
  · exact .testQuorums gone
  · exact .testRun gone
  · exact .testDrain gone

/-- The bank controllers' and the Refresh Controller's own work moves no access of a port into a queue. -/
theorem AfterLoss.ofBanks {t : State} (gone : s.Gone p) (queue : ∀ b, (t.bank b).queue = (s.bank b).queue)
    (park : t.park = s.park) (watches : t.watches = s.watches) (events : t.events = s.events)
    (votes : t.refresh.votes = s.refresh.votes) (wakes : t.refresh.heldWakes = s.refresh.heldWakes)
    (config : t.config = s.config) (hpus : t.hpus = s.hpus) : AfterLoss p s t :=
  .of gone (.same park watches events votes wakes config) (by rw [State.hpu, hpus]; rfl)
    (fun b a ha => .inl (by rwa [queue] at ha)) (fun q => ⟨[], by rw [State.eventPort, events, List.append_nil]; rfl⟩)

theorem AfterLoss.testHeld (gone : s.Gone p) : AfterLoss p s s.testHeld := by
  have begun : AfterLoss p s s.testRefreshStart := by
    unfold State.testRefreshStart
    split
    · refine .ofBanks gone (fun b => ?_) rfl rfl rfl rfl rfl rfl rfl
      rw [State.bank_map (s := s) (t := s.beginRefresh) (f := fun k => { k with state := .refreshing }) rfl]
    · exact .rfl' gone
  refine begun.trans ?_
  have started := begun.gone
  unfold State.testHeld
  generalize s.testRefreshStart = t at started
  unfold State.testPlacingStart
  split
  · exact .ofBanks started (fun _ => rfl) rfl rfl rfl rfl rfl rfl rfl
  · exact .rfl' started

theorem AfterLoss.placeHold (gone : s.Gone p) : AfterLoss p s s.placeHold := by
  have held : AfterLoss p s s.holdBanks := .ofBanks gone (fun b => by
    rw [State.bank_map (s := s) rfl, BankCtl.holdPlaced_queue]) rfl rfl rfl rfl rfl rfl rfl
  exact held.trans (.testHeld held.gone)

theorem AfterLoss.testOpportunity (gone : s.Gone p) : AfterLoss p s s.testOpportunity := by
  unfold State.testOpportunity
  split
  · exact .placeHold gone
  · exact .rfl' gone

theorem AfterLoss.testRetention (gone : s.Gone p) : AfterLoss p s s.testRetention := by
  unfold State.testRetention
  split
  · have entering : AfterLoss p s (s.modRefresh (fun r => { r with power := .entering })) :=
      .ofBanks gone (fun _ => rfl) rfl rfl rfl rfl rfl rfl rfl
    unfold State.enterRetention
    simp only
    split
    · exact entering.trans (.testHeld entering.gone)
    · exact entering.trans (.placeHold entering.gone)
  · exact .rfl' gone

/-- A port leaves CLEARING: the departed one by its link, for no JOIN of it is held. -/
theorem AfterLoss.leaveClearing (q : Port) (gone : s.Gone p) : AfterLoss p s (s.leaveClearing q) := by
  by_cases same : q = p
  · subst same
    unfold State.leaveClearing
    rw [gone.noJoin]
    have own : ((s.modHpu q (fun h => { h with port := if h.link = .alive then .linked else .down })).hpu q) = _ :=
      State.hpu_modHpu_same s q _
    refine ⟨⟨gone.absent.noGain (.same rfl rfl rfl rfl rfl rfl), ?_, ?_, gone.queued⟩, ?_, fun _ => ⟨[], (List.append_nil _).symm⟩⟩
    · rw [own]
      simp only
      split <;> simp
    · rw [own]
      exact gone.noJoin
    · rw [own]
  · have other : p ≠ q := Ne.symm same
    unfold State.leaveClearing
    split
    · have up : AfterLoss p s ((s.modHpu q (fun h => { h with heldJoin := none })).goUp q) := by
        refine .of gone ⟨id, id, ?_, ?_, id, id, id, id, id⟩ ?_ (fun _ _ ha => .inl ha) (fun r => ⟨[], ?_⟩)
        · change _ → ((s.events.set q _).get p).queue = []
          rw [Four.get_set_other _ _ other]
          exact id
        · change _ → ((s.events.set q _).get p).attention = false
          rw [Four.get_set_other _ _ other]
          exact id
        · change ((s.hpus.set q _).set q _).get p = _
          rw [Four.get_set_other _ _ other, Four.get_set_other _ _ other]
          rfl
        · change ((s.events.set q _).get r).queue = _
          rw [Four.get_set, List.append_nil]
          split
          · rename_i here
            subst here
            rfl
          · rfl
      have joined := up.trans (.raiseOthers q (.portJoined q) up.gone)
      exact joined.trans (.reply same _ _ _ joined.gone)
    · exact .apart gone (.same rfl rfl rfl rfl rfl rfl) (State.hpu_modHpu_other s _ other) rfl rfl

theorem AfterLoss.setTeardown (td : Four (Option TeardownRec)) (gone : s.Gone p) : AfterLoss p s { s with teardown := td } :=
  .apart gone (.same rfl rfl rfl rfl rfl rfl) rfl rfl rfl

theorem AfterLoss.completeTeardown (q : Port) (gone : s.Gone p) : AfterLoss p s (s.completeTeardown q) := by
  unfold State.completeTeardown
  split
  · exact .rfl' gone
  · rename_i r _
    have raised := AfterLoss.raiseOthers q (.portCleared q r.restored r.released r.held) gone
    have dropped := raised.trans (.setTeardown (s.teardown.set q none) raised.gone)
    rw [← (show (State.raiseOthers q (.portCleared q r.restored r.released r.held) s).teardown = s.teardown by
      rw [State.raiseOthers_frame])] at dropped
    have left := dropped.trans (.leaveClearing q dropped.gone)
    have tested := left.trans (.testQuorums left.gone)
    exact tested.trans (.testRetention tested.gone)

theorem mem_queue_pick {k : BankCtl} {a : Access} (ha : a ∈ k.pick.queue) : ∃ x ∈ k.queue, ∃ n, a = { x with bypass := n } := by
  obtain same | ⟨x, rest, -, chosen, picked⟩ := k.pick_cases
  · rw [same] at ha
    exact ⟨a, ha, a.bypass, rfl⟩
  · obtain ⟨older, younger, whole, left, -⟩ := chooseAccess_cases chosen
    rw [picked, show rest = _ from left, List.mem_append, List.mem_map] at ha
    obtain ⟨y, hy, rfl⟩ | young := ha
    · exact ⟨y, by simp [whole, hy], _, rfl⟩
    · exact ⟨a, by simp [whole, young], a.bypass, rfl⟩

theorem AfterLoss.enqueue {a : Access} (recovery : a.isHost = false) (gone : s.Gone p) : AfterLoss p s (s.enqueue a) := by
  have frame := State.enqueue_frame a s
  have same : NoGain p s (s.enqueue a) := by
    rw [frame]
    exact .same rfl rfl rfl rfl rfl rfl
  have joined (b : Bank) : ∀ x ∈ ((s.modBank (bankOf a.cell) (fun k => { k with queue := k.queue ++ [{ a with bypass := 0 }] })).bank b).queue,
      x ∈ (s.bank b).queue ∨ x.isHost = false := by
    intro x hx
    by_cases here : b = bankOf a.cell
    · subst here
      rw [State.bank_modBank_same] at hx
      obtain old | new := List.mem_append.1 hx
      · exact .inl old
      · rw [List.mem_singleton.1 new]
        exact .inr recovery
    · rw [State.bank_modBank_other _ _ here] at hx
      exact .inl hx
  refine ⟨⟨gone.absent.noGain same, ?_, ?_, fun b x hx own => ?_⟩, ?_, fun q => ⟨[], ?_⟩⟩
  · rw [frame]
    exact gone.notUp
  · rw [frame]
    exact gone.noJoin
  · have queued : ∀ y ∈ ((s.modBank (bankOf a.cell) (fun k => { k with queue := k.queue ++ [{ a with bypass := 0 }] })).bank b).queue,
        y.port = p → y.isHost = false := fun y hy mine =>
      (joined b y hy).elim (fun old => gone.queued b y old mine) id
    unfold State.enqueue State.pickBank at hx
    split at hx
    · exact queued x hx own
    · by_cases here : b = bankOf a.cell
      · subst here
        rw [State.bank_modBank_same] at hx
        obtain ⟨y, hy, n, rfl⟩ := mem_queue_pick hx
        exact queued y hy own
      · rw [State.bank_modBank_other _ _ here] at hx
        exact queued x hx own
  · rw [frame]
    rfl
  · rw [frame, List.append_nil]
    rfl

theorem AfterLoss.walk (q : Port) (gone : s.Gone p) : AfterLoss p s (s.walk q) := by
  have cells (l : List CellIx) {t : State} (h : t.Gone p) : AfterLoss p t (walkCells q l t) := by
    induction l generalizing t with
    | nil => exact .completeTeardown q h
    | cons c rest ih =>
      have marked (f : TeardownRec → TeardownRec) : AfterLoss p t (t.modTeardown q f) := .setTeardown _ h
      unfold walkCells
      split
      · exact (marked _).trans (ih (marked _).gone)
      · exact (marked _).trans (.enqueue rfl (marked _).gone)
      · exact (marked _).trans (.enqueue rfl (marked _).gone)
  have begun : AfterLoss p s (s.modTeardown q (fun r => { r with phase := .walking, current := none })) := .setTeardown _ gone
  exact begun.trans (cells _ begun.gone)

theorem AfterLoss.act (a : Act) (gone : s.Gone p) : AfterLoss p s (a.run s) := by
  cases a with
  | walk q =>
    change AfterLoss p s (if s.walkDue q then s.walk q else s)
    split
    · exact .walk q gone
    · exact .rfl' gone
  | config => exact .testConfig gone
  | refresh => exact .testOpportunity gone

theorem AfterLoss.settle (gone : s.Gone p) : AfterLoss p s s.settle := by
  have chosen : AfterLoss p s { s with choices := s.choices + 1 } :=
    .apart gone (.same rfl rfl rfl rfl rfl rfl) rfl rfl rfl
  unfold State.settle
  split
  · exact chosen.trans (.foldl (fun _ a _ h => .act a h) chosen.gone)
  · exact .foldl (fun _ a _ h => .act a h) gone

end

end Sys2Proof.Machine

namespace Sys2Proof.Machine

/-! ### An event at each port (R74 to R77) -/

/-- An event raised for some ports, each once: an UP port among them takes it. -/
theorem State.raises_eventPort {ports : List Port} (once : ports.Nodup) (e : Event) (s : State) (q : Port) :
    (ports.foldl (fun t p => t.raise p e) s).eventPort q =
      if q ∈ ports ∧ (s.hpu q).port = .up then (s.eventPort q).take e else s.eventPort q := by
  induction ports generalizing s with
  | nil => simp
  | cons p rest ih =>
    obtain ⟨fresh, once⟩ := List.nodup_cons.1 once
    have hpu : (s.raise p e).hpu q = s.hpu q := by rw [State.raise_frame]; rfl
    rw [List.foldl_cons, ih once, hpu]
    by_cases up : (s.hpu p).port = .up
    · rw [State.raise_up e up]
      by_cases same : q = p
      · subst same
        simp [fresh, up, State.eventPort]
      · simp [same, State.eventPort]
    · rw [State.raise_absent e up]
      by_cases same : q = p
      · subst same
        simp [fresh, up]
      · simp [same]

theorem State.raiseAll_eventPort (e : Event) (s : State) (q : Port) :
    (s.raiseAll e).eventPort q = if (s.hpu q).port = .up then (s.eventPort q).take e else s.eventPort q := by
  rw [State.raiseAll, State.raises_eventPort allFour_nodup]
  simp

theorem State.raiseOthers_eventPort (p : Port) (e : Event) (s : State) (q : Port) :
    (s.raiseOthers p e).eventPort q =
      if q ≠ p ∧ (s.hpu q).port = .up then (s.eventPort q).take e else s.eventPort q := by
  rw [State.raiseOthers, State.raises_eventPort (allFour_nodup.filter _)]
  simp

/-! ### JOIN (R156) -/

/-- A JOIN with a FREE tag passes every check while the part is ACTIVE. -/
theorem exec_join {p : Port} {f : Frame} {s : State} (ready : Ready .join p f s) (active : s.refresh.power = .active)
    (notDown : ((s.admitted false p f).hpu p).port ≠ .down) :
    exec (.join p f) s = .next (serveJoin p f (s.admitted false p f)) := by
  rw [State.hpu_admitted_same] at notDown
  refine exec_served ready ?_
  rw [State.refusal_receiveValid, active]
  cases port : (s.hpu p).validFrame.port with
  | down => exact absurd port notDown
  | linked | up | clearing => rfl

/-- Settles O23, by the port state. -/
theorem joinActsByThePortState : Obligations.JoinActsByThePortState := by
  unfold Obligations.JoinActsByThePortState
  intro p f s ready active t
  have alive : (t.hpu p).link = .alive := s.admitted_alive false p f
  have earlierJoin : (t.hpu p).heldJoin = (s.hpu p).heldJoin := by
    rw [State.hpu_admitted_same]
    exact Hpu.validFrame_heldJoin _
  have sendList : (t.hpu p).sendList = (s.hpu p).sendList := by
    rw [State.hpu_admitted_same]
    exact Hpu.validFrame_sendList _
  have serves {st : PortState} (port : (t.hpu p).port = st) (notDown : st ≠ .down) :
      exec (.join p f) s = .next (serveJoin p f t) := exec_join ready active (port.trans_ne notDown)
  refine ⟨fun linked => (serves linked (by decide)).trans (congrArg _ ?_),
    fun up => (serves up (by decide)).trans (congrArg _ ?_),
    fun clearing none => (serves clearing (by decide)).trans (congrArg _ ?_),
    fun earlier clearing held => (serves clearing (by decide)).trans (congrArg _ ?_)⟩
  · rw [serveJoin, linked]
    refine State.answer_alive ?_
    rw [State.joinUp_eq, State.raiseOthers_frame]
    change ((t.hpus.set p _).get p).link = _
    rw [Four.get_set_same]
    exact alive
  · rw [serveJoin, up]
    exact State.answer_alive alive
  · rw [serveJoin, clearing, earlierJoin, none]
    rfl
  · rw [serveJoin, clearing, earlierJoin, held]
    simp only
    rw [State.reply_alive _ _ _ alive]
    simp only [State.handed, State.modHpu, Four.get_set_same, Four.set_set, sendList]
    rfl

/-! ### Link loss and sending (R148, R149, R154, R110) -/

theorem Hpu.noTagOut_iff {h : Hpu} : h.noTagOut = true ↔ ∀ tag, h.tags.get tag = .free := by
  have all : ∀ tag : Tag, tag ∈ allTags := by decide
  rw [Hpu.noTagOut, List.all_eq_true]
  exact ⟨fun h tag => by simpa using h tag (all tag), fun h tag _ => by simpa using h tag⟩

theorem State.retentionDue_iff {s : State} : s.retentionDue = true ↔ RetentionAgreed s := by
  simp only [State.retentionDue, Bool.and_eq_true, beq_iff_eq, State.quorum_iff, List.isEmpty_iff, Four.all_toList,
    Hpu.noTagOut_iff, allFour_all, Bool.not_eq_true', State.isClearing, beq_eq_false_iff_ne]
  exact ⟨fun ⟨⟨⟨⟨⟨run, up, voted⟩, parked⟩, tags⟩, clearing⟩, active⟩ => ⟨run, active, up, voted, parked, tags, clearing⟩,
    fun h => ⟨⟨⟨⟨⟨h.running, h.someUp, h.voted⟩, h.noneParked⟩, h.noTagOut⟩, h.noneClearing⟩, h.active⟩⟩

theorem exec_retentionDecision {s : State} (high : s.resetHigh = true) :
    exec .retentionDecision s = .next s.testRetention := whileReleased_high high _

theorem State.testRetention_rests {s : State} (no : ¬RetentionAgreed s) : s.testRetention = s :=
  State.testRetention_notDue (Bool.eq_false_iff.2 (fun due => no (State.retentionDue_iff.1 due)))

theorem exec_linkLoss {p : Port} {s : State} (high : s.resetHigh = true) (alive : (s.hpu p).link = .alive) :
    exec (.linkLoss p) s = .next (s.loseLink p) :=
  (whileReleased_high high _).trans (congrArg _ (if_pos (by simp [State.isAlive, alive])))

/-- Settles O25. -/
theorem linkLossAndSending : Obligations.LinkLossAndSending := by
  unfold Obligations.LinkLossAndSending
  refine ⟨fun p s high alive => ?_, fun p s high alive => ⟨?_, fun r rest list => ?_⟩⟩
  · intro lost down
    refine ⟨fun clearing => ?_, fun linked => ?_⟩
    · rw [exec_linkLoss high alive, State.loseLink, clearing]
      rfl
    · have lose : exec (.linkLoss p) s = .next down.testRetention := by
        rw [exec_linkLoss high alive, State.loseLink, linked]
        simp only [State.modHpu_modHpu]
        rfl
      exact ⟨lose.trans (exec_retentionDecision (s := down) high).symm, fun no => by
        rw [lose, State.testRetention_rests no]⟩
  · exact (whileReleased_high high _).trans (congrArg _ (if_pos (by simp [State.isAlive, alive])))
  · intro sent
    have first : (s.hpu p).sendFirst =
        { s.hpu p with
          sendTimer := some 0, lastSent := some r.words, sendList := rest, tags := (s.hpu p).tags.set r.tag .free } := by
      rw [Hpu.sendFirst, list]
      rfl
    have next : s.modHpu p Hpu.sendFirst = sent := congrArg (fun k => { s with hpus := s.hpus.set p k }) first
    have sends : exec (.responseSent p) s = .next sent.testRetention := by
      refine (whileReleased_high high _).trans (congrArg _ ((if_pos ?_).trans (congrArg _ next)))
      simp [State.isAlive, alive, list]
    exact ⟨sends.trans (exec_retentionDecision (s := sent) high).symm, fun no => by
      rw [sends, State.testRetention_rests no]⟩

end Sys2Proof.Machine

namespace Sys2Proof.Machine

/-! ### A decision that leaves the state is none -/

theorem State.replyHeld_config (kind : Byte) (body : RespBody) (held : List (Port × Tag)) (s : State) :
    (s.replyHeld kind body held).config = s.config := by
  induction held generalizing s with
  | nil => rfl
  | cons x rest ih =>
    rw [State.replyHeld_cons, ih]
    rfl

theorem State.raiseAll_config (e : Event) (s : State) : (s.raiseAll e).config = s.config := by
  obtain ⟨events, h⟩ := State.raises_frame allFour e s
  rw [State.raiseAll, h]

theorem State.testRun_state (s : State) :
    s.testRun.config.state = if s.runDue then .run else s.config.state := by
  unfold State.testRun
  split
  · rw [State.goRun, State.raiseAll_config, State.answerCommits, State.replyHeld_config]
    rfl
  · rfl

theorem State.testDrain_state (s : State) :
    s.testDrain.config.state = if s.drainDue then .setup else s.config.state := by
  unfold State.testDrain
  split
  · rw [State.endDrain, State.raiseAll_config, State.answerReopens, State.replyHeld_config]
    rfl
  · rfl

/-- The configuration's test leaves the state as it is only where it is not due. -/
theorem Decides.notDue {s t : State} (high : s.resetHigh = true) (decides : Decides s t) (same : t = s) :
    s.configDue = false := by
  cases decides with
  | overlaps state agreed overlap =>
    have commits := congrArg (fun u => u.config.commits) same
    simp only [State.replyHeld_config] at commits
    obtain ⟨⟨p, up⟩, all⟩ := agreed
    have recorded := all p up
    rw [← commits, Four.get_all] at recorded
    cases recorded
  | commits state agreed apart run =>
    rw [exec_stepToRun (by exact high)] at run
    have after := State.testRun_state { s with config := { s.config with state := .committing } }
    rw [Host.Outcome.next.inj run, same, state] at after
    split at after <;> cases after
  | runs state run =>
    rw [exec_stepToRun high] at run
    have after := State.testRun_state s
    rw [Host.Outcome.next.inj run, same, state] at after
    unfold State.configDue
    rw [state]
    refine Bool.eq_false_iff.2 (fun due => ?_)
    rw [if_pos due] at after
    cases after
  | reopens state agreed drain =>
    rw [exec_drainEnd (by exact high)] at drain
    have after := State.testDrain_state { s with config := { s.config with state := .draining } }
    rw [Host.Outcome.next.inj drain, same, state] at after
    split at after <;> cases after
  | drains state drain =>
    rw [exec_drainEnd high] at drain
    have after := State.testDrain_state s
    rw [Host.Outcome.next.inj drain, same, state] at after
    unfold State.configDue
    rw [state]
    refine Bool.eq_false_iff.2 (fun due => ?_)
    rw [if_pos due] at after
    cases after
  | waits undecided =>
    refine Bool.eq_false_iff.2 (fun due => ?_)
    obtain (⟨state, agreed⟩ | ⟨state, agreed⟩) | ⟨state, -⟩ | ⟨state, -⟩ := State.configDue_iff.1 due
    all_goals
      obtain ⟨state', disagreed⟩ | ⟨state', disagreed⟩ := undecided
    all_goals simp_all

/-! ### Departure (R155, R157, R160 to R162) -/

/-- The state in which every block has taken its notice of a teardown start, before PORT_LOST is raised (R160). -/
def State.noticed (p : Port) (reason : LossReason) (h : Hpu) (s : State) : State :=
  { s with
    hpus := s.hpus.set p h
    teardown := s.teardown.set p
      (some
        { reason := reason, phase := .awaiting, awaited := s.banks.map (fun k => k.current.isSome), passed := [],
          current := none, restored := 0, released := 0, held := 0 })
    banks := s.banks.map (fun k => { k with queue := k.queue.filter (fun a => !(a.isHost && a.port == p)) })
    config :=
      { s.config with
        commits := s.config.commits.set p none
        heldCommits := s.config.heldCommits.filter (fun x => x.1 != p)
        reopenVotes := s.config.reopenVotes.set p false
        heldReopens := s.config.heldReopens.filter (fun x => x.1 != p)
        inits := s.config.inits.filter (fun i =>
          i.port != p ||
            allFour.any (fun b => (s.bank b).current.any (fun a => a.isGroupWrite && a.port == p && a.tag == some i.tag))) }
    park := s.park.filter (fun e => e.port != p)
    watches := s.watches.filter (fun w => w.port != p)
    events := s.events.set p { s.eventPort p with queue := [], attention := false }
    refresh :=
      { s.refresh with
        votes := s.refresh.votes.set p false
        heldWakes := s.refresh.heldWakes.filter (fun x => x.1 != p) } }

/-- The start of a teardown, taken whole (R160). -/
def State.cleared (p : Port) (reason : LossReason) (h : Hpu) (s : State) : State :=
  State.raiseOthers p (.portLost p reason) (s.noticed p reason h)

theorem State.clearPort_eq (p : Port) (reason : LossReason) (s : State) :
    s.clearPort p reason = s.cleared p reason (s.hpu p).startTeardown := rfl

/-- A departure's own share, taken by the HPU and the vote it withdraws, shows in the start only as the HPU it leaves. -/
theorem State.clearPort_share {p : Port} {reason : LossReason} {s : State} (h : Hpu) (v : Four Bool)
    (votes : v.set p false = s.refresh.votes.set p false) :
    State.clearPort p reason { s with hpus := s.hpus.set p h, refresh := { s.refresh with votes := v } } =
      s.cleared p reason h.startTeardown := by
  rw [State.clearPort_eq]
  refine congrArg (State.raiseOthers p (.portLost p reason)) ?_
  unfold State.noticed
  simp only [State.hpu, Four.get_set_same, Four.set_set, votes]
  rfl

theorem Hpu.startTeardown_tags (h : Hpu) (tag : Tag) :
    h.startTeardown.tags.get tag = .outstanding ↔ ∃ r ∈ h.sendList, r.tag = tag := by
  have kept : h.startTeardown.tags.get tag =
      if (h.sendList.map (fun r => r.tag)).contains tag then .outstanding else .free := by
    fin_cases tag <;> rfl
  rw [kept]
  simp

section
variable {p : Port} {reason : LossReason} {h : Hpu} {s : State}

theorem State.noticed_gone (clearing : h.port = .clearing) (noJoin : h.heldJoin = none) :
    (s.noticed p reason h).Gone p := by
  have own : (s.noticed p reason h).hpu p = h := Four.get_set_same _ _ _
  have events : (s.noticed p reason h).eventPort p = { s.eventPort p with queue := [], attention := false } :=
    Four.get_set_same _ _ _
  refine ⟨⟨fun e he => ?_, fun w hw => ?_, by rw [events], by rw [events],
    ⟨Four.get_set_same _ _ _, Four.get_set_same _ _ _, Four.get_set_same _ _ _⟩, fun x hx => ?_⟩, by rw [own, clearing]; decide,
    by rw [own, noJoin], fun b a ha mine => ?_⟩
  · simpa using (List.mem_filter.1 he).2
  · simpa using (List.mem_filter.1 hw).2
  · obtain wakesOrCommits | reopens := List.mem_append.1 hx
    · obtain wakes | commits := List.mem_append.1 wakesOrCommits
      · simpa using (List.mem_filter.1 wakes).2
      · simpa using (List.mem_filter.1 commits).2
    · simpa using (List.mem_filter.1 reopens).2
  · rw [State.bank_map (s := s) (t := s.noticed p reason h)
      (f := fun k => { k with queue := k.queue.filter (fun a => !(a.isHost && a.port == p)) }) rfl] at ha
    have kept := (List.mem_filter.1 ha).2
    rw [mine] at kept
    simpa using kept

theorem State.cleared_frame : s.cleared p reason h = { s.noticed p reason h with events := (s.cleared p reason h).events } :=
  State.raiseOthers_frame _ _ _

theorem State.cleared_current (b : Bank) : ((s.cleared p reason h).bank b).current = (s.bank b).current := by
  rw [State.cleared_frame, State.bank_map (s := s)
    (f := fun k => { k with queue := k.queue.filter (fun a => !(a.isHost && a.port == p)) }) rfl]

theorem State.cleared_gone (clearing : h.port = .clearing) (noJoin : h.heldJoin = none) : (s.cleared p reason h).Gone p :=
  (AfterLoss.raiseOthers p _ (State.noticed_gone clearing noJoin)).gone

theorem State.cleared_hpu : (s.cleared p reason h).hpu p = h := by
  rw [State.cleared_frame]
  exact Four.get_set_same _ _ _

/-- PORT_LOST joins the queue of every other UP port with room (R160). -/
theorem State.cleared_queue {q : Port} (other : q ≠ p) (up : (s.hpu q).port = .up)
    (room : (s.eventPort q).queue.length < 16) :
    ((s.cleared p reason h).eventPort q).queue =
      (s.eventPort q).queue ++ [{ seq := (s.eventPort q).seq, event := .portLost p reason }] := by
  have hpu : (s.noticed p reason h).hpu q = s.hpu q := Four.get_set_other _ _ other
  have port : (s.noticed p reason h).eventPort q = s.eventPort q := Four.get_set_other _ _ other
  rw [State.cleared, State.raiseOthers_eventPort, hpu, port, if_pos ⟨other, up⟩, EventPort.take_room _ room]

theorem State.cleared_awaiting :
    (s.cleared p reason h).teardown.get p =
      some
        { reason := reason, phase := .awaiting, awaited := s.banks.map (fun k => k.current.isSome), passed := [],
          current := none, restored := 0, released := 0, held := 0 } := by
  rw [State.cleared_frame]
  exact Four.get_set_same _ _ _

theorem State.cleared_others {q : Port} (other : q ≠ p) : (s.cleared p reason h).teardown.get q = s.teardown.get q := by
  rw [State.cleared_frame]
  exact Four.get_set_other _ _ other

/-- With no other teardown under way and a bank at work, what follows a departure is the configuration's test alone. -/
theorem State.cleared_settle_busy (others : ∀ q, q ≠ p → s.teardown.get q = none)
    (busy : ∃ b, (s.bank b).current ≠ none) : (s.cleared p reason h).settle = (s.cleared p reason h).testConfig := by
  obtain ⟨b, current⟩ := busy
  have noWalk : ∀ q, (s.cleared p reason h).walkDue q = false := by
    intro q
    refine Bool.eq_false_iff.2 (fun due => ?_)
    obtain ⟨r, record, -, awaited⟩ := State.walkDue_iff.1 due
    by_cases same : q = p
    · subst same
      rw [State.cleared_awaiting, Option.some.injEq] at record
      have here := awaited b
      rw [← record, Four.get_map] at here
      exact current (by simpa [State.bank] using here)
    · rw [State.cleared_others same, others q same] at record
      cases record
  have noRefresh : (s.cleared p reason h).opportunityDue = false := by
    refine Bool.eq_false_iff.2 (fun due => ?_)
    obtain ⟨-, -, -, none⟩ := State.opportunityDue_iff.1 due
    exact current ((State.cleared_current b).symm.trans (none b).2)
  rw [State.settle_noWalk noWalk, noRefresh]
  cases due : (s.cleared p reason h).configDue with
  | true => rfl
  | false => exact (State.testConfig_notDue due).symm

/-- With no bank at work, and neither decision nor refresh due, it is the walk's start alone. -/
theorem State.cleared_settle_idle (others : ∀ q, q ≠ p → s.teardown.get q = none)
    (idle : ∀ b, (s.bank b).current = none) (noDecision : (s.cleared p reason h).configDue = false)
    (no : ¬(s.cleared p reason h).Opportunity) :
    (s.cleared p reason h).walkDue p = true ∧ (s.cleared p reason h).settle = (s.cleared p reason h).walk p := by
  have walk : (s.cleared p reason h).walkDue p = true := by
    refine State.walkDue_iff.2 ⟨_, State.cleared_awaiting, rfl, fun b => ?_⟩
    rw [Four.get_map]
    exact (congrArg Option.isSome (idle b)).trans rfl
  refine ⟨walk, State.settle_walkAlone walk (fun q other => Bool.eq_false_iff.2 (fun due => ?_)) noDecision no⟩
  obtain ⟨r, record, -⟩ := State.walkDue_iff.1 due
  rw [State.cleared_others other, others q other] at record
  cases record

end

/-- What a departure leaves, whatever settles after it. -/
theorem State.cleared_departed {p : Port} {reason : LossReason} {h : Hpu} {s : State} (clearing : h.port = .clearing)
    (noJoin : h.heldJoin = none) :
    let t := (s.cleared p reason h).settle
    t.Absent p ∧ (t.hpu p).port ≠ .up ∧ (∀ b, ∀ a ∈ (t.bank b).queue, a.port = p → a.isHost = false) ∧
      t.cells = s.cells ∧ t.stamps = s.stamps ∧ t.table = s.table ∧
      ∀ q, q ≠ p → (s.hpu q).port = .up → (s.eventPort q).queue.length < 16 →
        ∃ more, (t.eventPort q).queue =
          (s.eventPort q).queue ++ { seq := (s.eventPort q).seq, event := .portLost p reason } :: more := by
  intro t
  obtain ⟨gone, -, grows⟩ := AfterLoss.settle (s := s.cleared p reason h) (State.cleared_gone clearing noJoin)
  have start : SameStore s (s.cleared p reason h) := by
    rw [State.cleared_frame]
    exact ⟨rfl, rfl, rfl, rfl⟩
  obtain ⟨cells, stamps, table, -⟩ := start.trans (.settle _)
  refine ⟨gone.absent, gone.notUp, gone.queued, cells, stamps, table, fun q other up room => ?_⟩
  obtain ⟨more, queue⟩ := grows q
  exact ⟨more, by rw [queue, State.cleared_queue other up room, List.append_assoc]; rfl⟩

/-- What follows a departure (R161, R162). -/
theorem State.cleared_follows {p : Port} {reason : LossReason} {h : Hpu} {s : State} (high : s.resetHigh = true) :
    let d := s.cleared p reason h
    State.FallsTo d d.settle ∧
      ((∀ q, q ≠ p → s.teardown.get q = none) →
        ((∃ b, (s.bank b).current ≠ none) → Decides d d.settle) ∧
        ((∀ b, (s.bank b).current = none) → Decides d d → ¬d.Opportunity →
          exec (.teardownWalkStart p) d = .next d.settle)) := by
  intro d
  have high' : d.resetHigh = true := by
    rw [show d = _ from State.cleared_frame]
    exact high
  refine ⟨State.settle_falls high', fun others => ⟨fun busy => ?_, fun idle undecided no => ?_⟩⟩
  · rw [State.cleared_settle_busy others busy]
    exact State.testConfig_decides high'
  · obtain ⟨walk, settles⟩ := State.cleared_settle_idle others idle (undecided.notDue high' rfl) no
    rw [exec_teardownWalkStart high', if_pos walk, settles]

/-- A departing port whose claims fall inside no access is cleared, and what has come due settles (R58, R160). -/
theorem State.depart_outside {p : Port} {reason : LossReason} {share : State → State} {s u : State}
    (rest : ∀ e ∈ s.park, e.port = p → s.NotInChange e) (park : u.park = s.park) (banks : u.banks = s.banks)
    (cells : u.cells = s.cells) (stamps : u.stamps = s.stamps) :
    u.depart p reason share = ((share u).clearPort p reason).settle := by
  rw [State.depart, State.inside_none (State.inAccess_rest (s := s)
    (fun x hx hits => rest x (park ▸ hx) (by simpa using hits)) banks cells stamps)]
  rfl

/-- LEAVE's own share: its OK, at the end of the send list (R157). -/
theorem State.leave_share (p : Port) (f : Frame) (s : State) :
    State.answer .leave p f .ok (s.admitted false p f) =
      { s with
        hpus := s.hpus.set p
          { (s.hpu p).validFrame with
            tags := (s.hpu p).tags.set f.tag .outstanding, admission := none
            sendList := (s.hpu p).sendList ++ [{ kind := 0x94, tag := f.tag, body := .ok }] }
        refresh := { s.refresh with votes := s.refresh.votes.set p false } } := by
  rw [State.answer_alive (s.admitted_alive false p f)]
  simp only [State.handed, State.admitted, State.hpu, Four.get_set_same, Four.set_set, Hpu.validFrame_sendList]
  rfl

/-- Settles O24: the start of the teardown taken whole, and what settles after it. -/
theorem departureStartsTeardown : Obligations.DepartureStartsTeardown := by
  unfold Obligations.DepartureStartsTeardown
  intro p s high up noJoin rest departed cleared follows
  refine ⟨fun f h => ?_, fun alive => ?_⟩
  · intro ok
    have kept := Hpu.startTeardown_tags { (s.hpu p).validFrame with
      tags := (s.hpu p).tags.set f.tag .outstanding, admission := none, sendList := (s.hpu p).sendList ++ [ok] }
    generalize tags : (Hpu.startTeardown { (s.hpu p).validFrame with
      tags := (s.hpu p).tags.set f.tag .outstanding, admission := none
      sendList := (s.hpu p).sendList ++ [ok] }).tags = T at kept
    have left : Hpu.startTeardown { (s.hpu p).validFrame with
          tags := (s.hpu p).tags.set f.tag .outstanding, admission := none, sendList := (s.hpu p).sendList ++ [ok] } =
        { (s.hpu p).validFrame with
          port := .clearing, tags := T, admission := none, sendList := (s.hpu p).sendList ++ [ok] } := by
      rw [← tags]
      rfl
    have leaves : exec (.leave p f) s = .next (s.cleared p .leave
        { (s.hpu p).validFrame with
          port := .clearing, tags := T, admission := none, sendList := (s.hpu p).sendList ++ [ok] }).settle := by
      refine (exec_accepted h rfl rfl rfl).trans (congrArg _ ?_)
      change (s.admitted false p f).depart p .leave (State.answer .leave p f .ok) = _
      rw [State.depart_outside (u := s.admitted false p f) rest rfl rfl rfl rfl, State.leave_share, State.clearPort_share _ _ (Four.set_set _ _ _ _), left]
    have noJoin' : ({ (s.hpu p).validFrame with
        port := .clearing, tags := T, admission := none, sendList := (s.hpu p).sendList ++ [ok] } : Hpu).heldJoin = none :=
      (Hpu.validFrame_heldJoin _).trans noJoin
    obtain ⟨-, hpu, -⟩ := AfterLoss.settle (State.cleared_gone (s := s) (p := p) (reason := .leave) rfl noJoin')
    rw [State.cleared_hpu] at hpu
    refine ⟨T, _, kept, leaves, State.cleared_departed rfl noJoin', ?_, ?_, ?_, State.cleared_follows high⟩
    · rw [hpu]
      exact Hpu.validFrame_link _
    · rw [hpu]
    · rw [hpu]
  · intro lost
    have loses : exec (.linkLoss p) s = .next (s.cleared p .link lost).settle := by
      rw [exec_linkLoss high alive, State.loseLink, up]
      change Host.Outcome.next (s.depart p .link (State.modHpu p Hpu.loseLink)) = _
      rw [State.depart_outside rest rfl rfl rfl rfl]
      exact congrArg (fun u => Host.Outcome.next (State.settle u))
        (State.clearPort_share (s := s) (s.hpu p).loseLink s.refresh.votes rfl)
    obtain ⟨-, hpu, -⟩ := AfterLoss.settle (State.cleared_gone (s := s) (p := p) (reason := .link) (h := lost) rfl rfl)
    rw [State.cleared_hpu] at hpu
    refine ⟨_, loses, State.cleared_departed rfl rfl, ?_, ?_, ?_, ?_, fun tag => ?_, State.cleared_follows high⟩
    · rw [hpu]
    · rw [hpu]
    · rw [hpu]
    · rw [hpu]
    · rw [State.tagState, hpu]
      exact Eight.get_all _ _

end Sys2Proof.Machine

namespace Sys2Proof.Machine

/-! ### Answers and events at each port (R34, R74 to R77, R154) -/

theorem State.reply_hpu (q : Port) (kind : Byte) (t : Tag) (body : RespBody) (s : State) (p : Port) :
    (s.reply q kind t body).hpu p =
      { s.hpu p with
        sendList := (s.hpu p).sendList ++
          if q = p ∧ (s.hpu p).link = .alive then [{ kind := kind, tag := t, body := body }] else [] } := by
  by_cases same : q = p
  · subst same
    rw [State.reply, State.hpu_modHpu_same]
    by_cases alive : (s.hpu q).link = .alive
    · rw [if_pos alive, if_pos ⟨rfl, alive⟩]
    · rw [if_neg alive, if_neg (fun h => alive h.2), List.append_nil]
  · rw [State.reply, State.hpu_modHpu_other _ _ (Ne.symm same), if_neg (fun h => same h.1), List.append_nil]

theorem State.replyHeld_frame (kind : Byte) (body : RespBody) (held : List (Port × Tag)) (s : State) :
    s.replyHeld kind body held = { s with hpus := (s.replyHeld kind body held).hpus } := by
  induction held generalizing s with
  | nil => rfl
  | cons x rest ih =>
    rw [State.replyHeld_cons, ih]
    rfl

theorem State.replyHeld_hpu (kind : Byte) (body : RespBody) (held : List (Port × Tag)) (s : State) (p : Port) :
    (s.replyHeld kind body held).hpu p =
      { s.hpu p with
        sendList := (s.hpu p).sendList ++
          if (s.hpu p).link = .alive then
            (held.filter (fun x => x.1 == p)).map (fun x => { kind := kind, tag := x.2, body := body })
          else [] } := by
  induction held generalizing s with
  | nil =>
    rw [List.filter_nil, List.map_nil, ite_self, List.append_nil]
    rfl
  | cons x rest ih =>
    rw [State.replyHeld_cons, ih, State.reply_hpu]
    by_cases alive : (s.hpu p).link = .alive
    · by_cases same : x.1 = p <;> simp [alive, same]
    · simp [alive]

theorem State.handAll_cons (x : Port × Response) (rest : List (Port × Response)) (s : State) :
    s.handAll (x :: rest) = (s.replyUp x.1 x.2.kind x.2.tag x.2.body).handAll rest := rfl

theorem State.handAll_hpu (answers : List (Port × Response)) (s : State) (p : Port) :
    (s.handAll answers).hpu p =
      { s.hpu p with
        sendList := (s.hpu p).sendList ++
          if (s.hpu p).port = .up ∧ (s.hpu p).link = .alive then (answers.filter (fun x => x.1 == p)).map (fun x => x.2)
          else [] } := by
  induction answers generalizing s with
  | nil =>
    rw [List.filter_nil, List.map_nil, ite_self, List.append_nil]
    rfl
  | cons x rest ih =>
    rw [State.handAll_cons, ih]
    by_cases same : x.1 = p
    · by_cases up : (s.hpu x.1).port = .up
      · rw [State.replyUp_up _ _ _ up, State.reply_hpu]
        by_cases alive : (s.hpu p).link = .alive
        · simp [same, same ▸ up, alive]
        · simp [alive]
      · rw [State.replyUp_absent _ _ _ up]
        simp [same ▸ up]
    · have skip : (s.replyUp x.1 x.2.kind x.2.tag x.2.body).hpu p = s.hpu p := by
        unfold State.replyUp
        split
        · rw [State.reply, State.hpu_modHpu_other _ _ (Ne.symm same)]
        · rfl
      rw [skip]
      simp [same]

/-- Settles O52. -/
theorem answersAndEventsReachTheirPorts : Obligations.AnswersAndEventsReachTheirPorts := by
  unfold Obligations.AnswersAndEventsReachTheirPorts
  refine ⟨fun kind body held s => ⟨_, State.replyHeld_frame kind body held s, State.replyHeld_hpu kind body held s⟩,
    fun answers s => ⟨_, State.handAll_frame answers s, State.handAll_hpu answers s⟩, fun e s => ?_⟩
  intro taken
  have takes (q : Port) : taken q = if (s.hpu q).port = .up then (s.eventPort q).take e else s.eventPort q := rfl
  obtain ⟨events, frame⟩ := State.raises_frame allFour e s
  refine ⟨⟨events, frame, fun q => ?_⟩, fun p => ⟨_, State.raiseOthers_frame p e s, fun q => ?_⟩⟩
  · have port := State.raiseAll_eventPort e s q
    rw [State.raiseAll, frame] at port
    exact port
  · refine (State.raiseOthers_eventPort p e s q).trans ?_
    rw [takes]
    by_cases same : q = p <;> simp [same]

/-! ### The walk (R162 to R164) -/

theorem State.modTeardown_some {p : Port} {s : State} {r : TeardownRec} (record : s.teardown.get p = some r)
    (f : TeardownRec → TeardownRec) : s.modTeardown p f = { s with teardown := s.teardown.set p (some (f r)) } := by
  rw [State.modTeardown, record]
  rfl

theorem State.modTeardown_modTeardown (p : Port) (f g : TeardownRec → TeardownRec) (s : State) :
    (s.modTeardown p f).modTeardown p g = s.modTeardown p (fun r => g (f r)) := by
  simp only [State.modTeardown, Four.get_set_same, Four.set_set, Option.map_map]
  rfl

/-- The walk passes HOLD cells, counting each (R163). -/
theorem walkCells_holds {p : Port} {held : List CellIx} (rest : List CellIx) {s : State}
    (hold : ∀ d ∈ held, ∃ e, s.table.regionOf d = some e ∧ e.policy = .hold) :
    walkCells p (held ++ rest) s =
      walkCells p rest
        (s.modTeardown p (fun r => { r with passed := r.passed ++ held, held := r.held + held.length })) := by
  induction held generalizing s with
  | nil =>
    have same : s.modTeardown p (fun r => { r with passed := r.passed ++ [], held := r.held + ([] : List CellIx).length }) = s := by
      simp only [List.append_nil, List.length_nil, Nat.add_zero, State.modTeardown, Option.map_id']
      rw [Four.set_get]
    rw [same, List.nil_append]
  | cons c later ih =>
    obtain ⟨e, region, policy⟩ := hold c List.mem_cons_self
    have lookup : s.table.lossLookup c = (.hold, some e.default) := by rw [RegionTable.lossLookup, region, ← policy]
    rw [List.cons_append, walkCells, lookup]
    simp only
    rw [ih (s := s.modTeardown p _) (fun d hd => hold d (List.mem_cons_of_mem _ hd)), State.modTeardown_modTeardown]
    simp only [List.append_assoc, List.singleton_append, List.length_cons, Nat.add_assoc, Nat.add_comm 1]

theorem State.completionDue_iff {s : State} {p : Port} {r : TeardownRec} (record : s.teardown.get p = some r) :
    s.completionDue p = true ↔ r.phase = .walking ∧ r.current = none ∧ ∀ c ∈ s.stamps.get p, c ∈ r.passed := by
  unfold State.completionDue State.untaken
  rw [record]
  simp [and_assoc, List.filter_eq_nil_iff]

theorem exec_teardownComplete {p : Port} {s : State} (high : s.resetHigh = true) (due : s.completionDue p = true) :
    exec (.teardownComplete p) s = .next (s.completeTeardown p) :=
  (whileReleased_high high _).trans (congrArg _ (if_pos due))

/-- Where a recovery access is issued, it joins its bank's queue (R85, R164). -/
theorem State.issueRecovery_joins {p : Port} {c : CellIx} {s : State} {r : TeardownRec} (record : s.teardown.get p = some r)
    (policy : LossPolicy) (default : Option Word) :
    ∃ k,
      Joins s.refresh.hold { port := p, tag := none, cell := c, work := .recovery policy default, bypass := 0 }
        (s.bank (bankOf c)) k ∧
      s.issueRecovery p c policy default =
        { s with
          teardown := s.teardown.set p (some { r with phase := .recovering, current := some c })
          banks := s.banks.set (bankOf c) k } := by
  let a : Access := { port := p, tag := none, cell := c, work := .recovery policy default, bypass := 0 }
  let marked : State := s.modTeardown p (fun r => { r with phase := .recovering, current := some c })
  refine ⟨(marked.enqueue a).bank (bankOf c), marked.joins_enqueue (a := a) rfl, ?_⟩
  refine (State.enqueue_eq (s := marked) (a := a) rfl).trans ?_
  simp only [marked, State.modTeardown_some record]
  rfl

/-- Settles O45. -/
theorem walkTakesTheStampListInOrder : Obligations.WalkTakesTheStampListInOrder := by
  unfold Obligations.WalkTakesTheStampListInOrder
  refine fun p s rec high record => ⟨fun held rest list hold => ?_, fun awaiting none => ?_, fun other => ?_⟩
  · intro onward
    have untaken : s.untaken p = held ++ rest := by rw [State.untaken, record, ← list]
    have walked : s.walk p =
        walkCells p rest { s with teardown := s.teardown.set p (some (onward .walking none)) } := by
      rw [State.walk, untaken, walkCells_holds rest (by exact hold), State.modTeardown_modTeardown,
        State.modTeardown_some record]
    refine ⟨fun done => ?_, fun c later next => ?_⟩
    · subst done
      rw [List.append_nil] at list
      refine (exec_teardownComplete (by exact high) ?_).trans (congrArg _ walked.symm)
      refine (State.completionDue_iff (r := onward .walking none) (Four.get_set_same _ _ _)).2
        ⟨rfl, rfl, fun c mem => List.mem_append.2 ?_⟩
      by_cases passed : c ∈ rec.passed
      · exact .inl passed
      · exact .inr (list ▸ List.mem_filter.2 ⟨mem, by simpa using passed⟩)
    · intro issues
      subst next
      have issue (policy : LossPolicy) (default : Option Word)
          (taken : s.walk p = State.issueRecovery p c policy default
            { s with teardown := s.teardown.set p (some (onward .walking none)) }) : issues policy default := by
        obtain ⟨k, joins, issued⟩ := State.issueRecovery_joins (c := c) (r := onward .walking none)
          (s := { s with teardown := s.teardown.set p (some (onward .walking none)) }) (Four.get_set_same _ _ _) policy default
        refine ⟨k, joins, ?_⟩
        rw [taken, issued]
        simp only [Four.set_set]
        rfl
      refine ⟨fun e region policy => issue _ _ ?_, fun e region policy => issue _ _ ?_, fun none => issue _ _ ?_⟩
      · have lookup : s.table.lossLookup c = (.restore, some e.default) := by rw [RegionTable.lossLookup, region, ← policy]
        rw [walked, walkCells, lookup]
      · have lookup : s.table.lossLookup c = (.release, some e.default) := by rw [RegionTable.lossLookup, region, ← policy]
        rw [walked, walkCells, lookup]
      · have lookup : s.table.lossLookup c = (.release, Option.none) := by rw [RegionTable.lossLookup, none]
        rw [walked, walkCells, lookup]
  · rw [exec_teardownWalkStart high, if_pos (State.walkDue_iff.2 ⟨rec, record, awaiting, none⟩)]
  · rw [exec_teardownWalkStart high, if_neg]
    intro due
    obtain ⟨r, same, awaiting, none⟩ := State.walkDue_iff.1 due
    rw [record, Option.some.injEq] at same
    subst same
    obtain begun | ⟨b, awaited⟩ := other
    · exact begun awaiting
    · exact Bool.false_ne_true ((none b).symm.trans awaited)

/-! ### Completion (R167) -/

/-- The last step of a teardown finds no quorum. -/
theorem State.testQuorums_none {p : Port} {s u : State} (config : u.config = s.config) (table : u.table = s.table)
    (ports : ∀ q, q ≠ p → (u.hpu q).port = (s.hpu q).port)
    (none : s.config.state = .setup ∧ (∃ q, q ≠ p ∧ (s.hpu q).port = .up ∧ s.config.commits.get q ≠ some s.table.generation) ∨
      (s.config.state = .setup ∨ s.config.state = .run) ∧ (∀ q, q ≠ p → (s.hpu q).port ≠ .up) ∧
        s.config.commits.get p = none ∧ s.config.reopenVotes.get p = false ∨
      s.config.state = .run ∧ (∃ q, q ≠ p ∧ (s.hpu q).port = .up ∧ s.config.reopenVotes.get q = false) ∨
      s.config.state = .committing ∨ s.config.state = .draining) : u.testQuorums = u := by
  have alone (absent : ∀ q, q ≠ p → (s.hpu q).port ≠ .up) {q : Port} (up : (u.hpu q).port = .up) : q = p := by
    by_contra other
    exact absent q other ((ports q other).symm.trans up)
  refine State.testQuorums_notDue (fun setup => ?_) (fun run => ?_)
  · refine Bool.eq_false_iff.2 (fun quorum => ?_)
    obtain ⟨⟨q, up⟩, all⟩ := State.commitQuorum_iff.1 quorum
    rw [config] at setup
    rw [config, table] at all
    obtain ⟨-, q', other, up', uncommitted⟩ | ⟨-, absent, uncommitted, -⟩ | ⟨state, -⟩ | state | state := none
    · exact uncommitted (all q' ((ports q' other).trans up'))
    · have := all q up
      rw [alone absent up, uncommitted] at this
      cases this
    all_goals
      rw [setup] at state
      cases state
  · refine Bool.eq_false_iff.2 (fun quorum => ?_)
    obtain ⟨⟨q, up⟩, all⟩ := State.reopenQuorum_iff.1 quorum
    rw [config] at run all
    obtain ⟨setup, -⟩ | ⟨-, absent, -, unvoted⟩ | ⟨-, q', other, up', unvoted⟩ | state | state := none
    · rw [run] at setup
      cases setup
    · have := all q up
      rw [alone absent up, unvoted] at this
      cases this
    · exact Bool.false_ne_true (unvoted.symm.trans (all q' ((ports q' other).trans up')))
    all_goals
      rw [run] at state
      cases state

/-- The first steps of a completion: PORT_CLEARED to the others, and the record idle (R167). -/
def State.recordCleared (p : Port) (r : TeardownRec) (s : State) : State :=
  { State.raiseOthers p (.portCleared p r.restored r.released r.held) s with teardown := s.teardown.set p none }

theorem State.recordCleared_frame (p : Port) (r : TeardownRec) (s : State) :
    s.recordCleared p r =
      { s with events := (s.recordCleared p r).events, teardown := s.teardown.set p none } := by
  unfold State.recordCleared
  rw [State.raiseOthers_frame]

theorem State.completeTeardown_eq {p : Port} {s : State} {r : TeardownRec} (record : s.teardown.get p = some r) :
    s.completeTeardown p = ((s.recordCleared p r).leaveClearing p).testQuorums.testRetention := by
  have teardown : (State.raiseOthers p (.portCleared p r.restored r.released r.held) s).teardown = s.teardown := by
    rw [State.raiseOthers_frame]
  unfold State.completeTeardown State.recordCleared
  rw [record]
  simp only [teardown]

/-- A port leaves CLEARING by its held JOIN (R156). -/
theorem State.leaveClearing_joins {p : Port} {s : State} {tag : Tag} (held : (s.hpu p).heldJoin = some tag)
    (alive : (s.hpu p).link = .alive) :
    s.leaveClearing p =
      State.handed p [{ kind := 0x93, tag := tag, body := .ok }]
        (State.raiseOthers p (.portJoined p)
          { s with
            hpus := s.hpus.set p { s.hpu p with heldJoin := none, port := .up }
            events := s.events.set p { s.eventPort p with seq := 0, attention := true } }) := by
  have up : (s.modHpu p (fun h => { h with heldJoin := none })).goUp p =
      { s with
        hpus := s.hpus.set p { s.hpu p with heldJoin := none, port := .up }
        events := s.events.set p { s.eventPort p with seq := 0, attention := true } } := by
    simp only [State.goUp, State.modHpu, State.modEvents, Four.get_set_same, Four.set_set]
    rfl
  rw [State.leaveClearing, held]
  simp only
  rw [State.joinUp_eq, up]
  refine State.reply_alive _ _ _ ?_
  rw [State.raiseOthers_frame]
  exact (congrArg Hpu.link (Four.get_set_same _ _ _)).trans alive

/-- Settles O46. -/
theorem teardownCompletes : Obligations.TeardownCompletes := by
  unfold Obligations.TeardownCompletes
  intro p s rec high record walking current passed noQuorum cleared absent joined
  have frame : cleared = { s with events := cleared.events, teardown := s.teardown.set p none } :=
    State.recordCleared_frame p rec s
  have steps : exec (.teardownComplete p) s = .next (cleared.leaveClearing p).testQuorums.testRetention := by
    rw [exec_teardownComplete high ((State.completionDue_iff record).2 ⟨walking, current, passed⟩),
      State.completeTeardown_eq record]
    rfl
  have own : cleared.hpu p = s.hpu p := by rw [frame]; rfl
  have hpus : cleared.hpus = s.hpus := by rw [frame]
  have high' : cleared.resetHigh = true := by rw [frame]; exact high
  have config : cleared.config = s.config := by rw [frame]
  have table : cleared.table = s.table := by rw [frame]
  have ports {h : Hpu} (q : Port) (other : q ≠ p) : ((s.hpus.set p h).get q).port = (s.hpu q).port :=
    congrArg Hpu.port (Four.get_set_other _ _ other)
  refine ⟨fun none => ?_, fun tag held alive => ?_⟩
  · have left : cleared.leaveClearing p = absent := by
      rw [State.leaveClearing, own, none]
      change { cleared with hpus := cleared.hpus.set p _ } = _
      rw [hpus]
      rfl
    rw [steps, left, State.testQuorums_none (u := absent) config table ports noQuorum]
    exact ⟨(exec_retentionDecision (s := absent) high').symm, fun no => by rw [State.testRetention_rests no]⟩
  · have left : cleared.leaveClearing p = joined tag := by
      rw [State.leaveClearing_joins (own ▸ held) (own ▸ alive), own, hpus]
    have store : SameStore cleared (joined tag) :=
      (show SameStore cleared
        { cleared with
          hpus := s.hpus.set p { s.hpu p with heldJoin := none, port := .up }
          events := cleared.events.set p { cleared.eventPort p with seq := 0, attention := true } } from
        ⟨rfl, rfl, rfl, rfl⟩).trans ((SameStore.raiseOthers p (.portJoined p) _).trans ⟨rfl, rfl, rfl, rfl⟩)
    have config' : (joined tag).config = s.config := by
      change (State.raiseOthers p (.portJoined p) _).config = _
      rw [State.raiseOthers_frame]
      exact config
    have ports' (q : Port) (other : q ≠ p) : ((joined tag).hpu q).port = (s.hpu q).port := by
      change ((State.handed p _ (State.raiseOthers p (.portJoined p) _)).hpu q).port = _
      rw [State.handed_port, State.raiseOthers_frame]
      exact ports q other
    rw [steps, left, State.testQuorums_none config' (store.table.trans table) ports' noQuorum]
    exact ⟨(exec_retentionDecision (store.resetHigh.trans high')).symm, fun no => by rw [State.testRetention_rests no]⟩

end Sys2Proof.Machine

namespace Sys2Proof.Machine

/-! ### The refresh interval (R102 to R104, R106) -/

theorem State.raiseAll_frame (e : Event) (s : State) : s.raiseAll e = { s with events := (s.raiseAll e).events } := by
  obtain ⟨events, raised⟩ := State.raises_frame allFour e s
  rw [State.raiseAll, raised]

/-- What an expiry counts in ACTIVE and ENTERING, before a hold is placed (R102, R106). -/
def State.expiryCounted (s : State) : State :=
  if s.refresh.debt < 6 then s.beginInterval.modRefresh (fun r => { r with debt := r.debt + 1 })
  else if s.refresh.overrunRaised = true then
    s.beginInterval.modRefresh (fun r => { r with overrun := true, overrunRaised := true })
  else (s.beginInterval.modRefresh (fun r => { r with overrun := true, overrunRaised := true })).raiseAll .refreshOverrun

/-- When an expiry places the hold: for an urgent or for an opportunistic refresh (R103, R104). -/
def State.ExpiryPlaces (s : State) : Prop :=
  s.refresh.power = .active ∧ s.refresh.hold = false ∧
    (s.refresh.debt = 3 ∨ ∀ b, (s.bank b).queue = [] ∧ (s.bank b).current = none)

/-- The counting leaves the banks, the power state, the hold and the refresh in progress; past debt 5 it leaves the debt. -/
theorem State.expiryCounted_kept (s : State) :
    s.expiryCounted.banks = s.banks ∧ s.expiryCounted.refresh.power = s.refresh.power ∧
      s.expiryCounted.refresh.hold = s.refresh.hold ∧ s.expiryCounted.refresh.refreshing = s.refresh.refreshing ∧
      (¬s.refresh.debt < 6 → s.expiryCounted.refresh.debt = s.refresh.debt) := by
  unfold State.expiryCounted
  split
  · rename_i room
    exact ⟨rfl, rfl, rfl, rfl, fun full => absurd room full⟩
  · split
    · exact ⟨rfl, rfl, rfl, rfl, fun _ => rfl⟩
    · rw [State.raiseAll_frame]
      exact ⟨rfl, rfl, rfl, rfl, fun _ => rfl⟩

/-- The opportunistic refresh that an expiry finds due. -/
theorem State.expiryCounted_opportunity {s : State} (counted : 1 ≤ s.expiryCounted.refresh.debt) :
    s.expiryCounted.Opportunity ↔ s.refresh.power = .active ∧ s.refresh.hold = false ∧
      ∀ b, (s.bank b).queue = [] ∧ (s.bank b).current = none := by
  obtain ⟨banks, power, hold, -, -⟩ := s.expiryCounted_kept
  rw [State.Opportunity, power, hold, show s.expiryCounted.bank = s.bank from funext (fun b => by rw [State.bank, banks]; rfl)]
  exact ⟨fun ⟨active, _, lifted, free⟩ => ⟨active, lifted, free⟩, fun ⟨active, lifted, free⟩ => ⟨active, counted, lifted, free⟩⟩

theorem State.raiseDebt_places {s : State} (room : s.refresh.debt < 6) :
    (s.ExpiryPlaces → s.beginInterval.raiseDebt = s.expiryCounted.placeHold) ∧
      (¬s.ExpiryPlaces → s.beginInterval.raiseDebt = s.expiryCounted) := by
  have counted : s.expiryCounted = s.beginInterval.modRefresh (fun r => { r with debt := r.debt + 1 }) := if_pos room
  have due := State.expiryCounted_opportunity (s := s) (by rw [counted]; exact Nat.le_add_left 1 _)
  have raised : s.beginInterval.raiseDebt =
      if s.refresh.power == .active && !s.refresh.hold && s.refresh.debt + 1 == 4 then s.expiryCounted.placeHold
      else s.expiryCounted.testOpportunity := by rw [counted]; rfl
  rw [raised]
  refine ⟨fun places => ?_, fun no => ?_⟩
  · split
    · rfl
    · rename_i calm
      obtain ⟨active, lifted, debt | free⟩ := places
      · exact absurd (by simp [active, lifted, debt]) calm
      · exact State.testOpportunity_due (due.2 ⟨active, lifted, free⟩)
  · rw [if_neg, State.testOpportunity_rests (fun opportunity => ?_)]
    · obtain ⟨active, lifted, free⟩ := due.1 opportunity
      exact no ⟨active, lifted, .inr free⟩
    · intro urgent
      simp only [Bool.and_eq_true, beq_iff_eq, Bool.not_eq_true'] at urgent
      obtain ⟨⟨active, lifted⟩, four⟩ := urgent
      exact no ⟨active, lifted, .inl (by omega)⟩

theorem State.overrunNow_places {s : State} (full : ¬s.refresh.debt < 6) :
    (s.ExpiryPlaces → s.beginInterval.overrunNow = s.expiryCounted.placeHold) ∧
      (¬s.ExpiryPlaces → s.beginInterval.overrunNow = s.expiryCounted) := by
  obtain ⟨-, -, -, -, debt⟩ := s.expiryCounted_kept
  have due := State.expiryCounted_opportunity (s := s) (by have := debt full; omega)
  have overruns : s.beginInterval.overrunNow = s.expiryCounted.testOpportunity := by
    rw [State.expiryCounted, if_neg full]
    rfl
  rw [overruns]
  refine ⟨fun ⟨active, lifted, free⟩ => State.testOpportunity_due (due.2 ⟨active, lifted, free.resolve_left (by omega)⟩),
    fun no => State.testOpportunity_rests (fun opportunity => ?_)⟩
  obtain ⟨active, lifted, free⟩ := due.1 opportunity
  exact no ⟨active, lifted, .inr free⟩

/-- An expiry in ACTIVE or ENTERING counts, and places the hold under its conditions. -/
theorem State.intervalExpiry_places {s : State} (counts : s.refresh.power = .active ∨ s.refresh.power = .entering) :
    (s.ExpiryPlaces → s.intervalExpiry = s.expiryCounted.placeHold) ∧
      (¬s.ExpiryPlaces → s.intervalExpiry = s.expiryCounted) := by
  have expiry : s.intervalExpiry = if s.refresh.debt < 6 then s.beginInterval.raiseDebt else s.beginInterval.overrunNow := by
    have power : s.beginInterval.refresh.power = s.refresh.power := rfl
    obtain active | entering := counts
    · rw [State.intervalExpiry, power, active]
      rfl
    · rw [State.intervalExpiry, power, entering]
      rfl
  rw [expiry]
  split
  · rename_i room
    exact State.raiseDebt_places room
  · rename_i full
    exact State.overrunNow_places full

theorem exec_refreshIntervalExpiry {s : State} {u : Nat} (high : s.resetHigh = true) (timer : s.refresh.timer = some u) :
    exec .refreshIntervalExpiry s = .next s.intervalExpiry :=
  (whileReleased_high high _).trans (congrArg _ (if_pos (by rw [timer]; rfl)))

/-- Settles O47. -/
theorem intervalExpiryOwesARefresh : Obligations.IntervalExpiryOwesARefresh := by
  unfold Obligations.IntervalExpiryOwesARefresh
  intro s u high timer began flagged counted places closed
  have expires := exec_refreshIntervalExpiry high timer
  obtain ⟨banks, power, hold, refreshing, -⟩ := s.expiryCounted_kept
  have bank (b : Bank) : s.expiryCounted.bank b = s.bank b := by rw [State.bank, banks]; rfl
  refine ⟨fun counts => ?_, fun sleeps => ?_⟩
  · obtain ⟨held, rests⟩ := State.intervalExpiry_places counts
    refine ⟨fun no => expires.trans (congrArg _ (rests no)), fun due busy => ?_, fun due idle free => ?_⟩
    · rw [expires, held due, State.placeHold_waits]
      · exact congrArg (fun k => Host.Outcome.next
          { s.expiryCounted with banks := k.map BankCtl.holdPlaced, refresh := { s.expiryCounted.refresh with hold := true } })
          banks
      · rw [refreshing]
        exact busy.imp_left (fun open' => by simpa only [bank] using not_forall.1 open')
    · rw [expires, held due, State.placeHold_begins (power.trans due.1) (fun b => by rw [bank]; exact idle b)
        (refreshing.trans free), banks]
      rfl
  · rw [expires]
    have power : s.beginInterval.refresh.power = s.refresh.power := rfl
    obtain retained | waking := sleeps
    · rw [State.intervalExpiry, power, retained]
      rfl
    · rw [State.intervalExpiry, power, waking]
      rfl

/-! ### Refreshes (R97, R105) -/

theorem exec_refreshStart {s : State} (high : s.resetHigh = true) : exec .refreshStart s = .next s.testRefreshStart :=
  whileReleased_high high _

theorem exec_refreshEnd {s : State} (high : s.resetHigh = true) (refreshing : s.refresh.refreshing = true) :
    exec .refreshEnd s = .next s.endRefresh :=
  (whileReleased_high high _).trans (congrArg _ (if_pos refreshing))

theorem State.testRefreshStart_begins {s : State} (closed : s.heldClosed = true) (active : s.refresh.power = .active) :
    s.testRefreshStart = s.beginRefresh := if_pos (by rw [closed, active]; rfl)

theorem State.testPlacingStart_begins {s : State} (closed : s.heldClosed = true) (entering : s.refresh.power = .entering)
    (notYet : s.refresh.placing = none) :
    s.testPlacingStart = { s with refresh := { s.refresh with placing := some s.table.settings.mask } } :=
  if_pos (by rw [closed, entering, notYet]; rfl)

/-- A bank with no current access once the hold is lifted: IDLE, or its oldest entry picked (R97, R98). -/
def BankCtl.lifted (k : BankCtl) : BankCtl :=
  match k.queue with
  | [] => { k with state := .idle }
  | a :: rest => { state := .opening (a.cell / 64), current := some a, queue := rest }

theorem BankCtl.lifted_of_none {k : BankCtl} (none : k.current = none) : k.toIdle.pick = k.lifted := by
  obtain ⟨st, cur, queue⟩ := k
  cases queue with
  | nil => exact BankCtl.pick_empty rfl
  | cons a rest => exact BankCtl.pick_idle none rfl rfl

theorem State.liftHold_eq {s : State} (none : ∀ b, (s.bank b).current = none) :
    s.liftHold = { s with banks := s.banks.map BankCtl.lifted, refresh := { s.refresh with hold := false } } := by
  have banks : s.banks.map (fun k => k.toIdle.pick) = s.banks.map BankCtl.lifted :=
    Four.eq_of_get (fun b => by rw [Four.get_map, Four.get_map]; exact BankCtl.lifted_of_none (none b))
  rw [State.liftHold, banks]

theorem State.queuesEmpty_iff {s : State} : s.queuesEmpty = true ↔ ∀ b, (s.bank b).queue = [] := by
  rw [State.queuesEmpty, Four.all_toList]
  exact forall_congr' (fun b => List.isEmpty_iff)

theorem State.endRefresh_active {s : State} (active : s.refresh.power = .active) :
    s.endRefresh = s.refreshOver.afterRefresh := by
  change (match s.refresh.power with
    | .active => s.refreshOver.afterRefresh
    | .entering | .retained | .waking => s.refreshOver.testPlacingStart) = _
  rw [active]

theorem State.endRefresh_entering {s : State} (entering : s.refresh.power = .entering) :
    s.endRefresh = s.refreshOver.testPlacingStart := by
  change (match s.refresh.power with
    | .active => s.refreshOver.afterRefresh
    | .entering | .retained | .waking => s.refreshOver.testPlacingStart) = _
  rw [entering]

/-- A refresh that follows another at once leaves the banks and the refresh in progress as they were (R105). -/
theorem State.refreshOver_again {s : State} (refreshing : s.refresh.refreshing = true)
    (banks : ∀ b, (s.bank b).state = .refreshing) :
    s.refreshOver.beginRefresh = { s with refresh := { s.refresh with debt := s.refresh.debt - 1 } } := by
  have same : s.banks.map (fun k => { k.toIdle with state := .refreshing }) = s.banks :=
    Four.map_eq_self (fun b => by
      have state : (s.banks.get b).state = .refreshing := banks b
      rw [BankCtl.toIdle, ← state])
  have flag : ({ s.refresh with debt := s.refresh.debt - 1, refreshing := true } : RefreshCtl) =
      { s.refresh with debt := s.refresh.debt - 1 } := by rw [← refreshing]
  rw [State.beginRefresh, State.refreshOver, Four.map_map, same]
  exact congrArg (fun r => { s with refresh := r }) flag

theorem State.afterRefresh_again {s : State} (owed : 4 ≤ s.refresh.debt ∨ 1 ≤ s.refresh.debt ∧ s.queuesEmpty = true) :
    s.afterRefresh = s.beginRefresh := by
  rw [State.afterRefresh]
  split
  · rfl
  · rename_i less
    exact if_pos (owed.resolve_left less)

theorem State.afterRefresh_lifts {s : State} (less : s.refresh.debt < 4) (rests : ¬(1 ≤ s.refresh.debt ∧ s.queuesEmpty = true)) :
    s.afterRefresh = s.liftHold.testOpportunity := by
  rw [State.afterRefresh, if_neg (by exact not_le.2 less), if_neg rests]

/-- Once the hold is lifted with an entry waiting or nothing owed, no opportunistic refresh is due (R103). -/
theorem State.liftHold_noOpportunity {s : State} (none : ∀ b, (s.bank b).current = none)
    (rests : ¬(1 ≤ s.refresh.debt ∧ s.queuesEmpty = true)) : ¬s.liftHold.Opportunity := by
  rw [State.liftHold_eq none]
  intro ⟨_, owed, _, free⟩
  refine rests ⟨owed, State.queuesEmpty_iff.2 (fun b => ?_)⟩
  obtain ⟨-, current⟩ := free b
  change ((s.banks.map BankCtl.lifted).get b).current = _ at current
  rw [Four.get_map, BankCtl.lifted] at current
  cases queue : (s.bank b).queue with
  | nil => rfl
  | cons a rest =>
    change (match (s.bank b).queue with | [] => _ | a :: rest => _ : BankCtl).current = _ at current
    rw [queue] at current
    cases current

/-- Settles O48. -/
theorem refreshStartsAndEnds : Obligations.RefreshStartsAndEnds := by
  unfold Obligations.RefreshStartsAndEnds
  intro s high hold
  refine ⟨fun free active idle => ?_, fun refreshing active banks owed => ?_, fun refreshing active banks rests => ?_,
    fun refreshing entering notYet banks => ?_⟩
  · rw [exec_refreshStart high, State.testRefreshStart_begins (State.heldClosed_iff.2 ⟨hold, free, idle⟩) active]
    rfl
  · rw [exec_refreshEnd high refreshing, State.endRefresh_active active, State.afterRefresh_again,
      State.refreshOver_again refreshing (fun b => (banks b).1)]
    have queue (b : Bank) : (s.refreshOver.bank b).queue = (s.bank b).queue := by
      rw [State.bank_map (s := s) rfl]
      rfl
    obtain five | ⟨two, empty⟩ := owed
    · exact .inl (Nat.le_sub_one_of_lt five)
    · exact .inr ⟨Nat.le_sub_one_of_lt two, State.queuesEmpty_iff.2 (fun b => (queue b).trans (empty b))⟩
  · have none (b : Bank) : (s.refreshOver.bank b).current = none := by
      rw [State.bank_map (s := s) rfl]
      exact (banks b).2
    have fallen : s.refreshOver.refresh.debt = s.refresh.debt - 1 := rfl
    have calm : ¬(1 ≤ s.refreshOver.refresh.debt ∧ s.refreshOver.queuesEmpty = true) := by
      intro ⟨owed, empty⟩
      obtain one | ⟨-, b, waits⟩ := rests
      · omega
      · have := State.queuesEmpty_iff.1 empty b
        rw [State.bank_map (s := s) rfl] at this
        exact waits this
    rw [exec_refreshEnd high refreshing, State.endRefresh_active active, State.afterRefresh_lifts (by omega) calm,
      State.testOpportunity_rests (State.liftHold_noOpportunity none calm), State.liftHold_eq none]
    rfl
  · have closed : s.refreshOver.heldClosed = true :=
      State.heldClosed_iff.2 ⟨hold, rfl, fun b => by
        rw [State.bank_map (s := s) rfl]
        exact ⟨rfl, (banks b).2⟩⟩
    rw [exec_refreshEnd high refreshing, State.endRefresh_entering entering,
      State.testPlacingStart_begins closed (by exact entering) (by exact notYet)]
    rfl

/-! ### Into and out of retention (R110, R111, R115) -/

theorem State.testRetention_decides {s : State} (agreed : RetentionAgreed s) : s.testRetention = s.enterRetention :=
  if_pos (State.retentionDue_iff.2 agreed)

theorem State.enterRetention_held {s : State} (hold : s.refresh.hold = true) :
    s.enterRetention = (s.modRefresh (fun r => { r with power := .entering })).testHeld := if_pos hold

theorem State.enterRetention_lifted {s : State} (lifted : s.refresh.hold = false) :
    s.enterRetention = (s.modRefresh (fun r => { r with power := .entering })).placeHold :=
  if_neg (by rw [Bool.not_eq_true]; exact lifted)

theorem exec_retentionPlacingStart {s : State} (high : s.resetHigh = true) :
    exec .retentionPlacingStart s = .next s.testPlacingStart := whileReleased_high high _

/-- Settles O49. -/
theorem retentionIsDecidedAndPlaced : Obligations.RetentionIsDecidedAndPlaced := by
  unfold Obligations.RetentionIsDecidedAndPlaced
  intro s high closed closing
  have decides := exec_retentionDecision high
  refine ⟨fun no => ?_, fun agreed busy => ?_, fun agreed idle free notYet => ?_, fun entering hold free notYet idle => ?_⟩
  · rw [decides, State.testRetention_rests no]
  · have busy' : (∃ b, ¬((s.bank b).state = .idle ∧ (s.bank b).current = none)) ∨ s.refresh.refreshing = true :=
      busy.imp_left not_forall.1
    rw [decides, State.testRetention_decides agreed]
    cases hold : s.refresh.hold with
    | true =>
      have open' : (s.modRefresh (fun r => { r with power := .entering })).heldClosed = false := by
        refine Bool.eq_false_iff.2 (fun held => ?_)
        obtain ⟨-, free, idle⟩ := State.heldClosed_iff.1 held
        exact busy.elim (fun open' => open' idle) (fun refreshing => Bool.false_ne_true (free.symm.trans refreshing))
      rw [State.enterRetention_held hold, State.testHeld_open open', if_pos rfl, State.modRefresh, ← hold]
    | false =>
      rw [State.enterRetention_lifted hold,
        State.placeHold_waits (s := s.modRefresh (fun r => { r with power := .entering })) busy']
      rfl
  · rw [decides, State.testRetention_decides agreed]
    cases hold : s.refresh.hold with
    | true =>
      have held : (s.modRefresh (fun r => { r with power := .entering })).heldClosed = true :=
        State.heldClosed_iff.2 ⟨hold, free, idle⟩
      rw [State.enterRetention_held hold, State.testHeld_entering rfl held (by exact notYet), State.modRefresh, ← hold]
    | false =>
      obtain ⟨held, banks⟩ := State.holdBanks_closed (s := s.modRefresh (fun r => { r with power := .entering })) idle free
      have placed : (s.modRefresh (fun r => { r with power := .entering })).placeHold =
        (s.modRefresh (fun r => { r with power := .entering })).holdBanks.testHeld := rfl
      rw [State.enterRetention_lifted hold, placed, State.testHeld_entering (by rfl) held (by exact notYet), banks]
      rfl
  · rw [exec_retentionPlacingStart high,
      State.testPlacingStart_begins (State.heldClosed_iff.2 ⟨hold, free, idle⟩) entering notYet]

theorem exec_retentionExitEnd {s : State} (high : s.resetHigh = true) (waking : s.refresh.power = .waking) :
    exec .retentionExitEnd s = .next s.endExit :=
  (whileReleased_high high _).trans (congrArg _ (if_pos (by rw [waking]; rfl)))

/-- Settles O51. -/
theorem retentionExitRestoresTheBanks : Obligations.RetentionExitRestoresTheBanks := by
  unfold Obligations.RetentionExitRestoresTheBanks
  intro s high waking none
  rw [exec_retentionExitEnd high waking, State.endExit,
    State.liftHold_eq (s := (s.modRefresh (fun r => { r with debt := 0 })).beginInterval) none]
  rfl

end Sys2Proof.Machine

namespace Sys2Proof.Machine

/-! ### The watches that are taken one after the other (R67 to R71) -/

section Taking

variable (gone : Watch → Bool) (last : Watch → Option Bool)

/-- What the taking of one watch makes of a watch of the table: its own entry leaves or takes its last result. -/
def Watch.taken (w x : Watch) : Option Watch :=
  if x.id = w.id then if gone w then none else some { x with last := last w } else some x

/-- What the taking of several watches, one after the other, makes of a watch of the table. -/
def takenAll (ws : List Watch) (x : Option Watch) : Option Watch :=
  ws.foldl (fun y w => y.bind (Watch.taken gone last w)) x

theorem takenAll_none (ws : List Watch) : takenAll gone last ws none = none := by
  induction ws with
  | nil => rfl
  | cons w rest ih => exact ih

theorem takenAll_other {ws : List Watch} {x : Watch} (others : ∀ w ∈ ws, x.id ≠ w.id) :
    takenAll gone last ws (some x) = some x := by
  induction ws with
  | nil => rfl
  | cons w rest ih =>
    have first : Watch.taken gone last w x = some x := if_neg (others w List.mem_cons_self)
    rw [takenAll, List.foldl_cons, Option.bind_some, first]
    exact ih (fun v hv => others v (List.mem_cons_of_mem _ hv))

theorem takenAll_own {ws : List Watch} {x : Watch} (once : ws.Pairwise (fun v w => v.id ≠ w.id)) (mem : x ∈ ws) :
    takenAll gone last ws (some x) = if gone x then none else some { x with last := last x } := by
  induction ws with
  | nil => cases mem
  | cons w rest ih =>
    obtain ⟨others, once⟩ := List.pairwise_cons.1 once
    rw [takenAll, List.foldl_cons, Option.bind_some]
    obtain rfl | later := List.mem_cons.1 mem
    · rw [Watch.taken, if_pos rfl]
      split
      · exact takenAll_none gone last rest
      · exact takenAll_other gone last (x := { x with last := last x }) others
    · rw [Watch.taken, if_neg (others x later).symm]
      exact ih once later

/-- The table once the watches that meet a test have been taken. -/
theorem filterMap_takenAll {table : List Watch} (rising : table.Pairwise (fun v w => v.id < w.id)) (p : Watch → Bool)
    {ws : List Watch} (perm : ws.Perm (table.filter p)) :
    table.filterMap (fun x => takenAll gone last ws (some x)) =
      (table.filter (fun x => !(p x && gone x))).map (fun x => if p x then { x with last := last x } else x) := by
  have distinct : table.Pairwise (fun v w => v.id ≠ w.id) := rising.imp (fun less => Nat.ne_of_lt less)
  have once : ws.Pairwise (fun v w => v.id ≠ w.id) := perm.symm.pairwise (distinct.filter p) (fun ne => ne.symm)
  rw [← List.filterMap_eq_map, List.filterMap_filter]
  refine List.filterMap_congr (fun x hx => ?_)
  cases test : p x with
  | true =>
    rw [takenAll_own gone last once (perm.mem_iff.2 (List.mem_filter.2 ⟨hx, test⟩))]
    cases gone x <;> simp [test]
  | false =>
    refine (takenAll_other gone last (fun w hw same => ?_)).trans (by simp [test])
    obtain ⟨inTable, passes⟩ := List.mem_filter.1 (perm.mem_iff.1 hw)
    rw [List.inj_on_of_nodup_map (List.pairwise_map.2 distinct) hx inTable same, passes] at test
    cases test

end Taking

/-- The records of some watches, raised in their order. -/
def State.raiseEach (event : Watch → Event) (ws : List Watch) (s : State) : State :=
  ws.foldl (fun t w => t.raise w.port (event w)) s

theorem State.raiseEach_frame (event : Watch → Event) (ws : List Watch) (s : State) :
    s.raiseEach event ws = { s with events := (s.raiseEach event ws).events } := by
  induction ws generalizing s with
  | nil => rfl
  | cons w rest ih =>
    have first : s.raiseEach event (w :: rest) = (s.raise w.port (event w)).raiseEach event rest := rfl
    rw [first, ih, State.raise_frame]

theorem State.raiseEach_event {event event' : Watch → Event} {ws : List Watch} (same : ∀ w ∈ ws, event w = event' w)
    (s : State) : s.raiseEach event ws = s.raiseEach event' ws :=
  List.foldl_ext _ _ _ (fun t w hw => by rw [same w hw])

theorem State.raise_setWatches (p : Port) (e : Event) (table : List Watch) (s : State) :
    State.raise p e { s with watches := table } = { s.raise p e with watches := table } := by
  unfold State.raise
  split <;> rename_i up
  · exact (if_pos up).symm ▸ rfl
  · exact (if_neg up).symm ▸ rfl

theorem State.raiseEach_setWatches (event : Watch → Event) (ws table : List Watch) (s : State) :
    State.raiseEach event ws { s with watches := table } = { s.raiseEach event ws with watches := table } := by
  induction ws generalizing s with
  | nil => rfl
  | cons w rest ih =>
    change State.raiseEach event rest (State.raise w.port (event w) { s with watches := table }) = _
    rw [State.raise_setWatches, ih]
    rfl

/-- An event's way depends on the port states and the event queues alone. -/
theorem State.raise_congr {p : Port} (e : Event) {s t : State} (hpus : t.hpus = s.hpus) (events : t.events = s.events) :
    (t.raise p e).events = (s.raise p e).events ∧ (t.raise p e).hpus = (s.raise p e).hpus := by
  have port : t.hpu p = s.hpu p := by rw [State.hpu, hpus]; rfl
  by_cases up : (s.hpu p).port = .up
  · rw [State.raise_up e up, State.raise_up e (by rw [port]; exact up), State.eventPort, events]
    exact ⟨rfl, hpus⟩
  · rw [State.raise_absent e up, State.raise_absent e (by rw [port]; exact up)]
    exact ⟨events, hpus⟩

theorem State.raiseEach_congr (event : Watch → Event) (ws : List Watch) {s t : State} (hpus : t.hpus = s.hpus)
    (events : t.events = s.events) : (t.raiseEach event ws).events = (s.raiseEach event ws).events := by
  induction ws generalizing s t with
  | nil => exact events
  | cons w rest ih =>
    obtain ⟨sameEvents, sameHpus⟩ := State.raise_congr (p := w.port) (event w) hpus events
    exact ih sameHpus sameEvents

theorem State.raises_congr (ports : List Port) (e : Event) {s t : State} (hpus : t.hpus = s.hpus) (events : t.events = s.events) :
    (ports.foldl (fun u p => u.raise p e) t).events = (ports.foldl (fun u p => u.raise p e) s).events := by
  induction ports generalizing s t with
  | nil => exact events
  | cons p rest ih =>
    obtain ⟨sameEvents, sameHpus⟩ := State.raise_congr (p := p) e hpus events
    exact ih sameHpus sameEvents

/-- Watches taken one after the other, each leaving the table or taking its last result and some raising a record: the
records are raised in the order of the watches, and the table is the one all of them leave. -/
theorem foldl_take {gone raises : Watch → Bool} {last : Watch → Option Bool} {event : Watch → Event}
    {take : State → Watch → State}
    (each : ∀ t w, take t w =
      { (if raises w then t.raise w.port (event w) else t) with
        watches := t.watches.filterMap (Watch.taken gone last w) })
    (ws : List Watch) (s : State) :
    ws.foldl take s =
      { s.raiseEach event (ws.filter raises) with
        watches := s.watches.filterMap (fun x => takenAll gone last ws (some x)) } := by
  induction ws generalizing s with
  | nil =>
    have same : s.watches.filterMap (fun x => takenAll gone last [] (some x)) = s.watches := List.filterMap_some
    rw [same]
    rfl
  | cons w rest ih =>
    have table (t : State) (ht : t.watches = s.watches.filterMap (Watch.taken gone last w)) :
        t.watches.filterMap (fun x => takenAll gone last rest (some x)) =
          s.watches.filterMap (fun x => takenAll gone last (w :: rest) (some x)) := by
      rw [ht, List.filterMap_filterMap]
      refine List.filterMap_congr (fun x _ => ?_)
      change _ = takenAll gone last rest (Watch.taken gone last w x)
      cases Watch.taken gone last w x with
      | none => exact (takenAll_none gone last rest).symm
      | some y => rfl
    rw [List.foldl_cons, ih, table _ (by rw [each]), each]
    rw [State.raiseEach_setWatches]
    cases fires : raises w with
    | true =>
      rw [List.filter_cons_of_pos fires]
      rfl
    | false =>
      rw [List.filter_cons_of_neg (by simp [fires])]
      rfl

/-- One entry of the table takes its last result, and leaves when it goes. -/
theorem filterMap_taken (gone : Watch → Bool) (last : Watch → Option Bool) (w : Watch) (table : List Watch) :
    table.filterMap (Watch.taken gone last w) =
      if gone w then table.filter (fun x => x.id != w.id)
      else table.map (fun x => if x.id = w.id then { x with last := last w } else x) := by
  cases leaves : gone w with
  | true =>
    rw [if_pos rfl, ← List.filterMap_eq_filter]
    refine List.filterMap_congr (fun x _ => ?_)
    by_cases same : x.id = w.id <;> simp [Watch.taken, same, leaves, Option.guard]
  | false =>
    rw [if_neg Bool.false_ne_true, ← List.filterMap_eq_map]
    refine List.filterMap_congr (fun x _ => ?_)
    by_cases same : x.id = w.id <;> simp [Watch.taken, same, leaves]

/-- A watch that has taken its last result leaves as it would have left without. -/
theorem filter_setLast (id : Nat) (last : Option Bool) (table : List Watch) :
    (table.map (fun x => if x.id = id then { x with last := last } else x)).filter (fun x => x.id != id) =
      table.filter (fun x => x.id != id) := by
  induction table with
  | nil => rfl
  | cons x rest ih =>
    rw [List.map_cons]
    by_cases same : x.id = id
    · rw [if_pos same, List.filter_cons_of_neg (by simp [same]), List.filter_cons_of_neg (by simp [same]), ih]
    · rw [if_neg same, List.filter_cons_of_pos (by simp [same]), List.filter_cons_of_pos (by simp [same]), ih]

/-! ### The evaluation of a cell's watches (R67 to R70) -/

theorem State.evalWatch_eq (v : Word) (o : Option Port) (s : State) (w : Watch) :
    s.evalWatch v o w =
      { (if w.fires v then s.raise w.port (w.firing v o) else s) with
        watches := s.watches.filterMap
          (Watch.taken (fun x => x.fires v && x.mode == .once) (fun x => triggerResult x.trigger v) w) } := by
  rw [filterMap_taken]
  unfold State.evalWatch State.setLast
  simp only
  cases fires : w.fires v with
  | false => rfl
  | true =>
    rw [if_pos rfl, if_pos rfl, State.raise_setWatches]
    by_cases once : w.mode = .once
    · rw [if_pos once, State.removeWatch, filter_setLast, once]
      rfl
    · rw [if_neg once, if_neg (by simp [once])]

/-- Settles O42: the watches on the cell are taken one after the other, each as its own entry of the table. -/
theorem watchesAreEvaluatedOnce : Obligations.WatchesAreEvaluatedOnce := by
  unfold Obligations.WatchesAreEvaluatedOnce
  intro c s v o r live rising result fires
  have evaluates : s.evalWatches c = (s.watchesOn c).foldl (fun t w => t.evalWatch v o w) s := by
    rw [State.evalWatches, live]
  have fires_eq (w : Watch) : fires w = (w.cell == c && w.fires v) := by
    cases trigger : w.trigger <;> simp [fires, Watch.fires, triggerResult, trigger]
  have fired : (s.watchesOn c).filter (fun w => w.fires v) = s.watches.filter fires := by
    rw [State.watchesOn, List.filter_filter]
    exact List.filter_congr (fun w _ => (Bool.and_comm _ _).trans (fires_eq w).symm)
  have event : ∀ w ∈ s.watches.filter fires, w.firing v o = .watchFired w.id c v o := by
    intro w hw
    have onCell : w.cell = c := by
      have := (List.mem_filter.1 hw).2
      rw [fires_eq, Bool.and_eq_true, beq_iff_eq] at this
      exact this.1
    rw [Watch.firing, onCell]
  have table := filterMap_takenAll (fun x => x.fires v && x.mode == .once) (fun x => triggerResult x.trigger v) rising
    (fun w => w.cell == c) (.refl _)
  rw [evaluates, foldl_take (State.evalWatch_eq v o) (s.watchesOn c) s, fired, State.watchesOn, table,
    State.raiseEach_event event, ← State.raiseEach_setWatches]
  have kept : s.watches.filter (fun x => !(x.cell == c && (x.fires v && x.mode == .once))) =
      s.watches.filter (fun w => !(fires w && w.mode == .once)) :=
    List.filter_congr (fun w _ => by rw [fires_eq, Bool.and_assoc])
  rw [kept]
  simp only [beq_iff_eq]
  rfl

/-! ### The cells lost at retention entry (R71, R112) -/

theorem State.fireLost_eq (s : State) (w : Watch) :
    s.fireLost w =
      { (if true then s.raise w.port (.cellLost w.id w.cell) else s) with
        watches := s.watches.filterMap (Watch.taken (fun x => x.mode == .once) (fun x => lostResult x.trigger) w) } := by
  have table : (s.raise w.port (.cellLost w.id w.cell)).watches = s.watches := by rw [State.raise_frame]
  rw [filterMap_taken, if_pos rfl, State.fireLost]
  simp only
  by_cases once : w.mode = .once
  · rw [if_pos once, State.removeWatch, table, once]
    rfl
  · rw [if_neg once, State.setLast, table, if_neg (by simp [once])]

theorem insertByCell_perm (w : Watch) (ws : List Watch) : (insertByCell w ws).Perm (w :: ws) := by
  induction ws with
  | nil => exact .refl _
  | cons x rest ih =>
    unfold insertByCell
    split
    · exact .refl _
    · exact (ih.cons x).trans (.swap w x rest)

/-- The order in which CELL_LOST is raised (R71). -/
def Watch.before (v w : Watch) : Prop := v.cell < w.cell ∨ v.cell = w.cell ∧ v.id < w.id

/-- A watch with a higher id than all listed keeps the order. -/
theorem insertByCell_ordered {w : Watch} {ws : List Watch} (ordered : ws.Pairwise Watch.before) (last : ∀ v ∈ ws, v.id < w.id) :
    (insertByCell w ws).Pairwise Watch.before := by
  induction ws with
  | nil => exact List.pairwise_singleton _ _
  | cons x rest ih =>
    obtain ⟨first, rising⟩ := List.pairwise_cons.1 ordered
    unfold insertByCell
    split
    · rename_i less
      refine List.pairwise_cons.2 ⟨fun v hv => .inl ?_, ordered⟩
      obtain rfl | later := List.mem_cons.1 hv
      · exact less
      · obtain lower | ⟨same, -⟩ := first v later
        · exact less.trans lower
        · exact same ▸ less
    · rename_i notLess
      refine List.pairwise_cons.2 ⟨fun v hv => ?_, ih rising (fun v hv => last v (List.mem_cons_of_mem _ hv))⟩
      obtain rfl | later := List.mem_cons.1 ((insertByCell_perm w rest).mem_iff.1 hv)
      · obtain less | same := Nat.lt_or_eq_of_le (not_lt.1 notLess)
        · exact .inl less
        · exact .inr ⟨same, last x List.mem_cons_self⟩
      · exact first v later

theorem foldl_insertByCell {acc ws : List Watch} (ordered : acc.Pairwise Watch.before)
    (rising : ws.Pairwise (fun v w => v.id < w.id)) (later : ∀ v ∈ acc, ∀ w ∈ ws, v.id < w.id) :
    (ws.foldl (fun l w => insertByCell w l) acc).Pairwise Watch.before ∧
      (ws.foldl (fun l w => insertByCell w l) acc).Perm (acc ++ ws) := by
  induction ws generalizing acc with
  | nil => exact ⟨ordered, by rw [List.append_nil]; exact .refl _⟩
  | cons w rest ih =>
    obtain ⟨first, rising⟩ := List.pairwise_cons.1 rising
    have perm := insertByCell_perm w acc
    obtain ⟨sorted, all⟩ := ih (insertByCell_ordered ordered (fun v hv => later v hv w List.mem_cons_self)) rising
      (fun v hv x hx => (List.mem_cons.1 (perm.mem_iff.1 hv)).elim (fun h => h ▸ first x hx)
        (fun h => later v h x (List.mem_cons_of_mem _ hx)))
    exact ⟨sorted, all.trans ((perm.append_right rest).trans List.perm_middle.symm)⟩

/-- The watches by cell are the given ones, in the order of R71. -/
theorem byCell_ordered {ws : List Watch} (rising : ws.Pairwise (fun v w => v.id < w.id)) :
    (byCell ws).Pairwise Watch.before ∧ (byCell ws).Perm ws :=
  foldl_insertByCell .nil rising (by simp)

theorem exec_retentionEntry {s : State} {mask : BitVec 4} (high : s.resetHigh = true) (entering : s.refresh.power = .entering)
    (placing : s.refresh.placing = some mask) : exec .retentionEntry s = .next (s.completeEntry mask) := by
  change execRetentionEntry s = _
  rw [execRetentionEntry, whileReleased_high high, entering, placing]

/-- The state with the lost watches taken. -/
def State.lostTaken (mask : BitVec 4) (s : State) : State :=
  { s.loseCells mask with
    watches := s.watches.filterMap (fun x =>
      takenAll (fun x => x.mode == .once) (fun x => lostResult x.trigger) (s.watchesLost mask) (some x))
    events := (s.raiseEach (fun w => .cellLost w.id w.cell) (s.watchesLost mask)).events }

theorem State.fireLosts_eq (s : State) (mask : BitVec 4) :
    (s.watchesLost mask).foldl (fun t w => t.fireLost w) (s.loseCells mask) = s.lostTaken mask := by
  have all : (s.watchesLost mask).filter (fun _ => true) = s.watchesLost mask := List.filter_true _
  rw [foldl_take State.fireLost_eq, all, State.raiseEach_frame,
    State.raiseEach_congr (s := s) (t := s.loseCells mask) _ _ rfl rfl]
  rfl

/-- What retention entry leaves: the cells lost, the watches that fired taken, the Refresh Controller and the banks brought
along, and the events raised. -/
theorem State.completeEntry_eq (s : State) (mask : BitVec 4) :
    s.completeEntry mask =
      { s.lostTaken mask with
        banks := (s.setRetained mask).banks
        refresh :=
          { s.refresh with
            debt := 0, votes := Four.all false, placing := none
            power := if s.refresh.heldWakes = [] then .retained else .waking }
        events := (State.raiseAll .retaining (s.raiseEach (fun w => .cellLost w.id w.cell) (s.watchesLost mask))).events } := by
  have hpus : (s.raiseEach (fun w => .cellLost w.id w.cell) (s.watchesLost mask)).hpus = s.hpus := by
    rw [State.raiseEach_frame]
  have events : (State.raiseAll .retaining ((s.lostTaken mask).setRetained mask)).events =
      (State.raiseAll .retaining (s.raiseEach (fun w => .cellLost w.id w.cell) (s.watchesLost mask))).events :=
    State.raises_congr allFour .retaining hpus.symm rfl
  rw [State.completeEntry]
  simp only
  rw [State.fireLosts_eq, State.raiseAll_frame, events]
  by_cases wakes : s.refresh.heldWakes = []
  · rw [if_pos (by rw [List.isEmpty_iff]; exact wakes), if_pos wakes]
    rfl
  · rw [if_neg (by rw [List.isEmpty_iff]; exact wakes), if_neg wakes]
    rfl

/-- Settles O50. -/
theorem retentionEntryLosesTheUnmaskedBanks : Obligations.RetentionEntryLosesTheUnmaskedBanks := by
  unfold Obligations.RetentionEntryLosesTheUnmaskedBanks
  intro s mask high entering placing rising kept hit
  have lost : s.watchesLost mask = byCell (s.watches.filter hit) := rfl
  obtain ⟨ordered, perm⟩ := byCell_ordered (rising.filter hit)
  have read (c : CellIx) : (s.completeEntry mask).readCell c = if kept c then s.readCell c else .lost := by
    rw [State.completeEntry_eq]
    exact CellStore.read_loseOutside s.cells mask c
  refine ⟨s.completeEntry mask, exec_retentionEntry high entering placing, fun c inside => ?_, fun c outside => ?_,
    fun p => ?_, fun p => ?_, ?_, ?_, fun b => ?_, ?_, ?_, ?_, ?_, s.watchesLost mask, perm, ordered, ?_⟩
  · rw [read, if_pos inside]
  · rw [read, if_neg (by simp [outside])]
  all_goals rw [State.completeEntry_eq]
  · exact Four.get_map _ _ _
  · exact Four.get_map _ _ _
  · exact filterMap_takenAll _ _ rising hit perm
  · change (s.setRetained mask).bank b = retainedBank (mask.getLsbD b.val) (s.bank b)
    exact State.setRetained_bank mask s b
  · rfl
  · rfl
  · rfl
  · rfl
  · rfl

end Sys2Proof.Machine

namespace Sys2Proof.Machine

/-! ### WATCH at its access (R65, R66) -/

/-- Where a watch with a free id stands in the table. -/
theorem insertWatch_split {table : List Watch} {n : Nat} (rising : table.Pairwise (fun v w => v.id < w.id))
    (free : ∀ w ∈ table, w.id ≠ n) :
    ∃ lower higher, table = lower ++ higher ∧ (∀ w ∈ lower, w.id < n) ∧ (∀ w ∈ higher, n < w.id) ∧
      ∀ w, w.id = n → insertWatch w table = lower ++ w :: higher := by
  induction table with
  | nil => exact ⟨[], [], rfl, by simp, by simp, fun w _ => rfl⟩
  | cons x rest ih =>
    obtain ⟨first, rising⟩ := List.pairwise_cons.1 rising
    obtain less | more := Nat.lt_or_gt_of_ne (free x List.mem_cons_self)
    · obtain ⟨lower, higher, rfl, low, high, insert⟩ := ih rising (fun w hw => free w (List.mem_cons_of_mem _ hw))
      refine ⟨x :: lower, higher, rfl, List.forall_mem_cons.2 ⟨less, low⟩, high, fun w id => ?_⟩
      rw [insertWatch, if_neg (by omega), insert w id]
      rfl
    · refine ⟨[], x :: rest, rfl, by simp,
        List.forall_mem_cons.2 ⟨more, fun w hw => Nat.lt_trans more (first w hw)⟩, fun w id => ?_⟩
      rw [insertWatch, if_pos (by omega)]
      rfl

/-- Every id below the lowest free one is in use. -/
theorem State.freeWatchId_lowest {s : State} {i : Nat}
    (below : i < s.freeWatchId) : ∃ w ∈ s.watches, w.id = i := by
  rw [State.freeWatchId] at below
  cases found : (List.range Config.watchCapacity).find? (fun i => s.watches.all (fun w => w.id != i)) with
  | none => simp [found] at below
  | some n =>
    rw [found, Option.getD_some] at below
    obtain ⟨-, -, used⟩ := List.find?_range_eq_some.1 found
    simpa using used i below

/-- In a table with room, the watches with ids below the lowest free one have all of these, in their order. -/
theorem State.watches_split {s : State} (ok : s.TablesOk) (room : s.watches.length < 32) :
    ∃ lower higher, s.watches = lower ++ higher ∧ lower.map (fun w => w.id) = List.range s.freeWatchId ∧
      (∀ w ∈ lower ++ higher, w.id ≠ s.freeWatchId) ∧ (∀ w ∈ higher, s.freeWatchId < w.id) ∧
      ∀ w, w.id = s.freeWatchId → insertWatch w s.watches = lower ++ w :: higher := by
  obtain ⟨-, fresh⟩ := State.freeWatchId_spec room
  obtain ⟨rising, -⟩ := ok.watchIds
  obtain ⟨lower, higher, table, low, high, insert⟩ := insertWatch_split rising fresh
  refine ⟨lower, higher, table, ?_, table ▸ fresh, high, insert⟩
  have sorted : (lower.map (fun w => w.id)).Pairwise (· < ·) :=
    List.pairwise_map.2 (rising.sublist (table ▸ List.sublist_append_left lower higher))
  refine sorted.eq_of_mem_iff List.pairwise_lt_range (fun i => ?_)
  rw [List.mem_map, List.mem_range]
  refine ⟨fun ⟨w, hw, id⟩ => id ▸ low w hw, fun below => ?_⟩
  obtain ⟨w, hw, id⟩ := State.freeWatchId_lowest below
  rw [table] at hw
  obtain lowerOne | higherOne := List.mem_append.1 hw
  · exact ⟨w, lowerOne, id⟩
  · have := high w higherOne
    omega

theorem firesAtCreation_iff {f : WatchFields} {v : Word} :
    firesAtCreation f v = true ↔ f.reportNow = true ∧ (f.trigger = .change ∨ triggerResult f.trigger v = some true) := by
  cases trigger : f.trigger <;> simp [firesAtCreation, trigger, triggerResult]

theorem State.watchFull_iff {s : State} {p : Port} :
    s.watchFull p = true ↔ 32 ≤ s.watches.length ∨ 12 ≤ (s.watches.filter (fun w => w.port == p)).length := by
  rw [State.watchFull, Bool.or_eq_true, decide_eq_true_eq, decide_eq_true_eq]
  rfl

theorem State.performWatch_absent {p : Port} {t : Tag} {c : CellIx} {f : WatchFields} {s : State} {v : Word}
    {o : Option Port} {r : Option Word} (live : s.readCell c = .live v o r) (absent : (s.hpu p).port ≠ .up) :
    s.performWatch p t c f = s := by
  rw [State.performWatch, live]
  exact if_pos (by simpa [State.isUp] using absent)

theorem State.performWatch_full {p : Port} {t : Tag} {c : CellIx} {f : WatchFields} {s : State} {v : Word}
    {o : Option Port} {r : Option Word} (live : s.readCell c = .live v o r) (full : s.watchFull p = true) :
    s.performWatch p t c f = s.replyUp p 0x85 t (.refused .watchFull) := by
  by_cases up : (s.hpu p).port = .up
  · rw [State.performWatch, live]
    exact (if_neg (by simp [State.isUp, up])).trans (if_pos full)
  · rw [State.performWatch_absent live up, State.replyUp_absent _ _ _ up]

theorem State.performWatch_created {p : Port} {t : Tag} {c : CellIx} {f : WatchFields} {s : State} {v : Word}
    {o : Option Port} {r : Option Word} (live : s.readCell c = .live v o r) (up : (s.hpu p).port = .up)
    (room : s.watchFull p = false) :
    s.performWatch p t c f =
      ((s.addWatch (newWatch s.freeWatchId p c f v)).replyUp p 0x85 t
        (.watch s.freeWatchId v o (triggerResult f.trigger v))).reportNow (newWatch s.freeWatchId p c f v) f v o := by
  rw [State.performWatch, live]
  exact (if_neg (by simp [State.isUp, up])).trans (if_neg (by simp [room]))

/-- Settles O41. -/
theorem watchIsCreated : Obligations.WatchIsCreated := by
  unfold Obligations.WatchIsCreated
  intro b s p tag c f n performing ok answers
  have run := exec_watchAccess performing
  refine ⟨fun gone => ?_, fun gone => ?_, fun v o r live => ⟨fun absent => ?_, fun full => ?_, fun up room roomOfPort => ?_⟩⟩
  · change exec _ s = _
    rw [run, State.performWatch, gone, State.handAll_one]
    rfl
  · change exec _ s = _
    rw [run, State.performWatch, gone, State.handAll_one]
    rfl
  · rw [run, State.performWatch_absent live absent]
  · change exec _ s = _
    rw [run, State.performWatch_full live (State.watchFull_iff.2 (full.imp Eq.ge Eq.ge)), State.handAll_one]
  · obtain ⟨lower, higher, table, ids, others, high, insert⟩ := State.watches_split ok room
    have created := State.performWatch_created (t := tag) (f := f) live up (Bool.eq_false_iff.2 (fun full =>
      (State.watchFull_iff.1 full).elim (not_le.2 room) (not_le.2 roomOfPort)))
    refine ⟨lower, higher, s.freeWatchId, table, ids, high, ?_⟩
    intro last watched fires
    have entered : (s.addWatch (newWatch s.freeWatchId p c f v)).replyUp p 0x85 tag
        (.watch s.freeWatchId v o (triggerResult f.trigger v)) = watched := by
      rw [State.addWatch, insert _ rfl]
      exact (State.handAll_one p 0x85 tag _ _).symm
    rw [entered] at created
    rw [run, created, State.reportNow]
    have raised : (watched.raise p (.watchFired s.freeWatchId c v o)).watches.filter (fun x => x.id != s.freeWatchId) =
        s.watches := by
      rw [State.raise_frame, table]
      change watched.watches.filter _ = _
      rw [State.handAll_watches]
      exact watches_removed (w := newWatch s.freeWatchId p c f v) others
    refine ⟨fun no => congrArg (fun t => Host.Outcome.next (State.finishAccess b t)) (if_neg ?_), fun fire repeats => ?_,
      fun fire once => ?_⟩
    · exact fun fire => no (firesAtCreation_iff.1 fire)
    · rw [if_pos (firesAtCreation_iff.2 fire)]
      exact congrArg (fun t => Host.Outcome.next (State.finishAccess b t)) (if_neg (by simp [newWatch, repeats]))
    · rw [if_pos (firesAtCreation_iff.2 fire)]
      refine congrArg (fun t => Host.Outcome.next (State.finishAccess b t)) ((if_pos once).trans ?_)
      exact congrArg (fun l => { watched.raise p (.watchFired s.freeWatchId c v o) with watches := l }) raised

end Sys2Proof.Machine

namespace Sys2Proof.Machine

/-! ### Cells written with owner NONE (R12, R136, R163) -/

/-- The first half of the owners' agreement: a cell is in a port's stamp list exactly when that port owns it (R10). -/
def State.OwnersListed (s : State) : Prop := ∀ p c, c ∈ s.stamps.get p ↔ (s.readCell c).owner = some p

/-- Some cells written alike without an owner: each leaves whichever stamp list holds it, with its place among the cells a
walk has passed, and nothing else changes. -/
structure Unowned (covered : CellIx → Bool) (r : CellRec) (s u : State) : Prop where
  read : ∀ d, u.readCell d = if covered d then r else s.readCell d
  stamps : ∀ q, u.stamps.get q = (s.stamps.get q).filter (fun d => !covered d)
  teardown : ∀ q, u.teardown.get q = (s.teardown.get q).map (fun x =>
    { x with passed := x.passed.filter (fun d => !(covered d && (s.stamps.get q).contains d)) })
  rest : u = { s with cells := u.cells, stamps := u.stamps, teardown := u.teardown }

theorem Unowned.none (r : CellRec) (s : State) : Unowned (fun _ => false) r s s where
  read _ := rfl
  stamps _ := (List.filter_true _).symm
  teardown q := by
    have same : (fun x : TeardownRec =>
        { x with passed := x.passed.filter (fun d => !(false && (s.stamps.get q).contains d)) }) = id := by
      funext x
      rw [show x.passed.filter (fun d => !(false && (s.stamps.get q).contains d)) = x.passed from List.filter_true _]
      rfl
    rw [same, Option.map_id]
    rfl
  rest := rfl

theorem Unowned.one {c : CellIx} {r : CellRec} {s : State} (free : r.owner = Option.none) (listed : s.OwnersListed) :
    Unowned (fun d => d == c) r s (s.putCell c r) where
  read d := by
    by_cases same : d = c
    · rw [same, State.putCell_read_same, if_pos (beq_self_eq_true c)]
    · rw [State.putCell_read_other r s same, if_neg (by simp [same])]
  stamps q := by
    have other (notOwner : (s.readCell c).owner ≠ some q) : (s.stamps.get q).filter (fun d => !(d == c)) = s.stamps.get q :=
      List.filter_eq_self.2 (fun d hd => by
        have : d ≠ c := fun same => notOwner ((listed q c).1 (same ▸ hd))
        simp [this])
    rw [State.putCell_stamps, free]
    split
    · rename_i none
      exact (other (by simp [none])).symm
    · rw [if_neg (by simp)]
      split
      · rfl
      · rename_i notOwner
        exact (other notOwner).symm
  teardown q := by
    have other (notOwner : (s.readCell c).owner ≠ some q) :
        (fun x : TeardownRec =>
          { x with passed := x.passed.filter (fun d => !(d == c && (s.stamps.get q).contains d)) }) = id := by
      funext x
      have all : x.passed.filter (fun d => !(d == c && (s.stamps.get q).contains d)) = x.passed :=
        List.filter_eq_self.2 (fun d _ => by
          by_cases same : d = c
          · have : c ∉ s.stamps.get q := fun h => notOwner ((listed q c).1 h)
            simp [same, this]
          · simp [same])
      rw [all]
      rfl
    rw [State.putCell_teardown, free]
    split
    · rename_i none
      rw [other (by simp [none]), Option.map_id]
      rfl
    · split
      · rename_i owner
        have own : c ∈ s.stamps.get q := (listed q c).2 owner
        have same : (fun d => !(d == c && (s.stamps.get q).contains d)) = fun d => d != c := by
          funext d
          by_cases same : d = c
          · simp [same, own]
          · have : (d == c) = false := by simpa using same
            simp [bne, this]
        rw [same]
      · rename_i notOwner
        rw [other notOwner, Option.map_id]
        rfl
  rest := by rw [State.putCell_frame]

theorem Unowned.listed {covered : CellIx → Bool} {r : CellRec} {s u : State} (h : Unowned covered r s u)
    (free : r.owner = Option.none) (listed : s.OwnersListed) : u.OwnersListed := by
  intro p c
  rw [h.stamps, List.mem_filter, listed, h.read]
  cases covered c <;> simp [free]

theorem Unowned.trans {first later : CellIx → Bool} {r : CellRec} {s t u : State} (h : Unowned first r s t)
    (k : Unowned later r t u) : Unowned (fun d => first d || later d) r s u where
  read d := by
    rw [k.read, h.read]
    cases first d <;> cases later d <;> rfl
  stamps q := by
    rw [k.stamps, h.stamps, List.filter_filter]
    exact List.filter_congr (fun d _ => by rw [Bool.not_or, Bool.and_comm])
  teardown q := by
    rw [k.teardown, h.teardown, Option.map_map]
    congr 1
    funext x
    change { x with passed := (x.passed.filter _).filter _ } = _
    rw [List.filter_filter]
    refine congrArg (fun l => { x with passed := l }) (List.filter_congr (fun d _ => ?_))
    rw [h.stamps]
    cases one : first d <;> cases two : later d <;> simp [one, List.mem_filter]
  rest := by
    rw [k.rest, h.rest]

theorem Unowned.foldl {r : CellRec} (free : r.owner = Option.none) (cells : List CellIx) {s : State} (listed : s.OwnersListed) :
    Unowned (fun d => cells.contains d) r s (cells.foldl (fun t c => t.putCell c r) s) := by
  induction cells generalizing s with
  | nil => exact .none r s
  | cons c rest ih =>
    have first := Unowned.one (c := c) free listed
    have all := first.trans (ih (first.listed free listed))
    have same : (fun d => d == c || rest.contains d) = fun d => (c :: rest).contains d := by
      funext d
      rw [List.contains_cons]
    rwa [same] at all

theorem InitFields.covered_contains (i : InitFields) (group d : CellIx) :
    (i.covered group).contains d = decide (group ≤ d ∧ d < group + 16 ∧ i.base ≤ d ∧ d < i.base + i.count) := by
  rw [Bool.eq_iff_iff, List.contains_iff_mem, decide_eq_true_iff, InitFields.covered, List.mem_filter, List.mem_map,
    Bool.and_eq_true, decide_eq_true_iff, decide_eq_true_iff]
  constructor
  · rintro ⟨⟨k, hk, rfl⟩, low, high⟩
    have := List.mem_range.1 hk
    exact ⟨Nat.le_add_right _ _, Nat.add_lt_add_left this _, low, high⟩
  · rintro ⟨above, below, low, high⟩
    exact ⟨⟨d - group, List.mem_range.2 (Nat.sub_lt_left_of_lt_add above below), Nat.add_sub_of_le above⟩, low, high⟩

/-! ### The INIT_CELLS in flight (R134, R135, R138) -/

section Flight

variable {p : Port} {tag : Tag} {x : InitFlight} {before after : List InitFlight}

theorem flight_notOwn {y : InitFlight} (other : ¬(y.port = p ∧ y.tag = tag)) : (y.port == p && y.tag == tag) = false := by
  rw [Bool.eq_false_iff]
  simpa using other

theorem flight_own (own : x.port = p ∧ x.tag = tag) : (x.port == p && x.tag == tag) = true := by simpa using own

theorem flights_found (own : x.port = p ∧ x.tag = tag) (others : ∀ y ∈ before ++ after, ¬(y.port = p ∧ y.tag = tag)) :
    (before ++ x :: after).find? (fun y => y.port == p && y.tag == tag) = some x := by
  rw [List.find?_append, List.find?_eq_none.2 (fun y hy => by
    simp [flight_notOwn (others y (List.mem_append_left _ hy))]), Option.none_or]
  exact List.find?_cons_of_pos (flight_own own)

theorem flights_dropped (own : x.port = p ∧ x.tag = tag) (others : ∀ y ∈ before ++ after, ¬(y.port = p ∧ y.tag = tag)) :
    (before ++ x :: after).filter (fun y => !(y.port == p && y.tag == tag)) = before ++ after := by
  rw [List.filter_append, List.filter_cons_of_neg (by simp [flight_own own]), ← List.filter_append,
    List.filter_eq_self.2 (fun y hy => by simp [flight_notOwn (others y hy)])]

theorem flights_advanced (next : CellIx) (own : x.port = p ∧ x.tag = tag)
    (others : ∀ y ∈ before ++ after, ¬(y.port = p ∧ y.tag = tag)) :
    (before ++ x :: after).map (fun y => if y.port == p && y.tag == tag then { y with nextGroup := next } else y) =
      before ++ { x with nextGroup := next } :: after := by
  have same (l : List InitFlight) (sub : l ⊆ before ++ after) :
      l.map (fun y => if y.port == p && y.tag == tag then { y with nextGroup := next } else y) = l :=
    List.map_congr_left (fun y hy => if_neg (by simp [flight_notOwn (others y (sub hy))])) |>.trans (List.map_id _)
  rw [List.map_append, List.map_cons, if_pos (flight_own own), same before (List.subset_append_left _ _),
    same after (List.subset_append_right _ _)]

end Flight

/-! ### GROUP_WRITE (R135 to R138) -/

/-- The report of a group write in the flight it belongs to (R135, R138): its share in the configuration, the ports and the
banks. -/
theorem State.reportGroupWrite_cases {p : Port} {tag : Tag} {group next : CellIx} {i : InitFields}
    {before after : List InitFlight} {s : State}
    (flight : s.config.inits = before ++ { port := p, tag := tag, init := i, nextGroup := next } :: after)
    (others : ∀ x ∈ before ++ after, ¬(x.port = p ∧ x.tag = tag)) :
    ((s.hpu p).port ≠ .up →
      s.reportGroupWrite p tag group = { s with config := { s.config with inits := before ++ after } }) ∧
    ((s.hpu p).port = .up → i.base + i.count ≤ group + 16 →
      s.reportGroupWrite p tag group =
        State.handAll [(p, { kind := 0x8F, tag := tag,
                             body := .inited i.count ((i.base + i.count - 1) / 16 - i.base / 16 + 1) })]
          { s with config := { s.config with inits := before ++ after } }) ∧
    ((s.hpu p).port = .up → group + 16 < i.base + i.count →
      s.reportGroupWrite p tag group =
        State.enqueue
          { port := p, tag := some tag, cell := max i.base (group + 16), work := .groupWrite i, bypass := 0 }
          { s with
            config :=
              { s.config with
                inits := before ++ { port := p, tag := tag, init := i, nextGroup := group + 16 } :: after } }) := by
  have found : s.flightOf p tag = some { port := p, tag := tag, init := i, nextGroup := next } := by
    rw [State.flightOf, flight, flights_found (p := p) (tag := tag) ⟨rfl, rfl⟩ others]
  have dropped : s.dropFlight p tag = { s with config := { s.config with inits := before ++ after } } := by
    rw [State.dropFlight, State.modConfig, flight, flights_dropped (p := p) (tag := tag) ⟨rfl, rfl⟩ others]
  have advanced : s.advanceFlight p tag (group + 16) =
      { s with
        config :=
          { s.config with
            inits := before ++ { port := p, tag := tag, init := i, nextGroup := group + 16 } :: after } } := by
    rw [State.advanceFlight, State.modConfig, flight, flights_advanced (p := p) (tag := tag) (group + 16) ⟨rfl, rfl⟩ others]
  have ends (m n : Nat) : m - 1 < n + 16 ↔ m ≤ n + 16 := by omega
  have lastOne : i.lastCell < group + 16 ↔ i.base + i.count ≤ group + 16 := ends _ _
  rw [State.reportGroupWrite, found]
  refine ⟨fun gone => ?_, fun up last => ?_, fun up more => ?_⟩
  · rw [← dropped]
    exact if_pos (by simpa [State.isUp] using gone)
  · rw [State.handAll_one, ← dropped]
    refine (if_neg (by simp [State.isUp, up])).trans (if_pos (lastOne.2 last))
  · rw [← advanced]
    refine (if_neg (by simp [State.isUp, up])).trans (if_neg (fun ends => Nat.not_le.2 more (lastOne.1 ends)))

/-- Settles O43. -/
theorem groupWriteWritesTheCoveredCells : Obligations.GroupWriteWritesTheCoveredCells := by
  unfold Obligations.GroupWriteWritesTheCoveredCells
  intro b s p tag c i n next before after performing flight others ok group covered
  have run := exec_groupWrite performing
  rw [groupBase_eq] at run
  have written : Unowned covered (initRec i) s (s.writeGroup i group) := by
    have all := Unowned.foldl (r := initRec i) rfl (i.covered group) ok.owners
    rwa [funext (InitFields.covered_contains i group)] at all
  obtain ⟨absent, last, more⟩ := State.reportGroupWrite_cases (s := s.writeGroup i group) (group := group)
    (by rw [written.rest]; exact flight) others
  have port : (s.writeGroup i group).hpu p = s.hpu p := by rw [written.rest]; rfl
  have config : (s.writeGroup i group).config = s.config := by rw [written.rest]
  have banks : (s.writeGroup i group).banks = s.banks := by rw [written.rest]
  have hpus : (s.writeGroup i group).hpus = s.hpus := by rw [written.rest]
  rw [port, config] at absent last more
  obtain ⟨u, reported⟩ : ∃ u, u = (s.writeGroup i group).reportGroupWrite p tag group := ⟨_, rfl⟩
  rw [← reported] at run absent last more
  have frame : u = { s.writeGroup i group with
      config := { s.config with inits := u.config.inits }, hpus := u.hpus, banks := u.banks } := by
    by_cases up : (s.hpu p).port = .up
    · obtain ends | goesOn := Nat.lt_or_ge (group + 16) (i.base + i.count)
      · rw [more up ends, State.enqueue_frame]
      · rw [last up goesOn, State.handAll_one, State.replyUp_frame]
    · rw [absent up]
  have kept : u.events = s.events ∧ u.park = s.park ∧ u.watches = s.watches ∧ u.table = s.table ∧ u.refresh = s.refresh ∧
      u.resetHigh = s.resetHigh ∧ u.now = s.now ∧ u.choices = s.choices ∧ u.pending = s.pending := by
    rw [frame, written.rest]
    exact ⟨rfl, rfl, rfl, rfl, rfl, rfl, rfl, rfl, rfl⟩
  obtain ⟨events, park, watches, table, refresh, resetHigh, now, choices, pending⟩ := kept
  refine ⟨u, run, fun d => ?_, fun q => ?_, fun q => ?_, events, park, watches, table, refresh, resetHigh, now, choices, pending,
    ?_, fun gone => ?_, fun up alive ends => ?_, fun up goesOn => ⟨?_, ?_, ?_⟩⟩
  · rw [frame]
    exact written.read d
  · rw [frame]
    exact written.stamps q
  · rw [frame]
    exact written.teardown q
  · rw [frame]
  · rw [absent gone]
    exact ⟨rfl, hpus, banks⟩
  · rw [last up ends, State.handAll_one, State.replyUp_up _ _ _ (by rw [← port] at up; exact up),
      State.reply_alive _ _ _ (by rw [← port] at alive; exact alive)]
    refine ⟨rfl, banks, ?_⟩
    change (s.writeGroup i group).hpus.set p _ = s.hpus.set p _
    rw [hpus]
    rfl
  · rw [more up goesOn, State.enqueue_frame]
  · rw [more up goesOn, State.enqueue_frame]
    exact hpus
  · intro first a
    have own : u = State.enqueue a
        { s.writeGroup i group with
          config :=
            { s.config with
              inits := before ++ { port := p, tag := tag, init := i, nextGroup := group + 16 } :: after } } := more up goesOn
    have joins : Joins s.refresh.hold a (s.bank (bankOf first)) (u.bank (bankOf first)) := by
      have joined := State.joins_enqueue (a := a)
        { s.writeGroup i group with
          config :=
            { s.config with
              inits := before ++ { port := p, tag := tag, init := i, nextGroup := group + 16 } :: after } } rfl
      rw [← own] at joined
      change Joins (s.writeGroup i group).refresh.hold a ((s.writeGroup i group).banks.get (bankOf first))
        (u.bank (bankOf first)) at joined
      have sameRefresh : (s.writeGroup i group).refresh = s.refresh := by rw [written.rest]
      rwa [sameRefresh, banks] at joined
    refine ⟨_, joins, ?_⟩
    have joined := congrArg State.banks (own.trans (State.enqueue_frame a _))
    rw [← own] at joined
    change u.banks = (s.writeGroup i group).banks.set (bankOf first) (u.bank (bankOf first)) at joined
    rwa [banks] at joined

end Sys2Proof.Machine

namespace Sys2Proof.Machine

/-! ### The Park List under a cascade on one cell (R45, R48, R50, R53) -/

/-- One entry for a port and a tag (R41, R152). -/
def OneEach (park : List ParkEntry) : Prop := park.Pairwise (fun x y => ¬(x.port = y.port ∧ x.tag = y.tag))

/-- The same parked operation, but for its last evaluation. -/
structure ParkEntry.SameOp (x y : ParkEntry) : Prop where
  port : x.port = y.port
  tag : x.tag = y.tag
  cell : x.cell = y.cell
  op : x.op = y.op

theorem ParkEntry.SameOp.refl (x : ParkEntry) : x.SameOp x := ⟨rfl, rfl, rfl, rfl⟩

theorem ParkEntry.SameOp.symm {x y : ParkEntry} (h : x.SameOp y) : y.SameOp x := ⟨h.port.symm, h.tag.symm, h.cell.symm, h.op.symm⟩

theorem ParkEntry.SameOp.trans {x y z : ParkEntry} (h : x.SameOp y) (k : y.SameOp z) : x.SameOp z :=
  ⟨h.port.trans k.port, h.tag.trans k.tag, h.cell.trans k.cell, h.op.trans k.op⟩

theorem OneEach.eq {park : List ParkEntry} (once : OneEach park) {x y : ParkEntry} (hx : x ∈ park) (hy : y ∈ park)
    (port : x.port = y.port) (tag : x.tag = y.tag) : x = y := by
  have keys : (park.map (fun e => (e.port, e.tag))).Nodup :=
    List.pairwise_map.2 (once.imp (fun apart same => apart ⟨(Prod.mk.inj same).1, (Prod.mk.inj same).2⟩))
  exact List.inj_on_of_nodup_map keys hx hy (Prod.ext port tag)

/-- A Park List worked on at the entry of one port and tag: that entry leaves or takes another last evaluation. -/
def WorksAt (e : ParkEntry) (before after : List ParkEntry) : Prop :=
  ∃ f : ParkEntry → Option ParkEntry, after = before.filterMap f ∧
    (∀ x, ¬(x.port = e.port ∧ x.tag = e.tag) → f x = some x) ∧ ∀ x y, f x = some y → y.SameOp x

section WorksAt

variable {e : ParkEntry} {before after : List ParkEntry}

theorem WorksAt.rest (e : ParkEntry) (park : List ParkEntry) : WorksAt e park park :=
  ⟨some, List.filterMap_some.symm, fun _ _ => rfl, fun _ _ same => Option.some.inj same ▸ .refl _⟩

theorem WorksAt.unparked (e : ParkEntry) (park : List ParkEntry) : WorksAt e park (park.filter (fun x => !(x.isOf e.port e.tag))) := by
  refine ⟨fun x => if x.isOf e.port e.tag then none else some x, ?_, fun x other => ?_, fun x y same => ?_⟩
  · rw [← List.filterMap_eq_filter]
    exact List.filterMap_congr (fun x _ => by cases own : x.isOf e.port e.tag <;> simp [own, Option.guard])
  · exact if_neg (fun own => other (ParkEntry.isOf_iff.1 own))
  · simp only at same
    split at same
    · cases same
    · exact Option.some.inj same ▸ .refl _

theorem WorksAt.renewed (e : ParkEntry) (v : Word) (o : Option Port) (s : State) :
    WorksAt e s.park (s.renew e.port e.tag v o).park := by
  refine ⟨some ∘ fun x => if x.isOf e.port e.tag then
    { x with lastValue := v, lastOwner := o, lastFlags := compareFlags v x.op.cmp } else x, ?_, fun x other => ?_,
    fun x y same => ?_⟩
  · rw [List.filterMap_eq_map]
    rfl
  · exact congrArg some (if_neg (fun own => other (ParkEntry.isOf_iff.1 own)))
  · rw [← Option.some.inj same]
    simp only
    split <;> exact ⟨rfl, rfl, rfl, rfl⟩

theorem WorksAt.origin (works : WorksAt e before after) {x : ParkEntry} (hx : x ∈ after) : ∃ y ∈ before, x.SameOp y := by
  obtain ⟨f, rfl, -, same⟩ := works
  obtain ⟨y, hy, fy⟩ := List.mem_filterMap.1 hx
  exact ⟨y, hy, same y x fy⟩

theorem WorksAt.once (works : WorksAt e before after) (once : OneEach before) : OneEach after := by
  obtain ⟨f, rfl, -, same⟩ := works
  refine List.Pairwise.filterMap f (fun x y apart u fx w fy alike => apart ?_) once
  have first := same x u fx
  have second := same y w fy
  exact ⟨first.port.symm.trans (alike.1.trans second.port), first.tag.symm.trans (alike.2.trans second.tag)⟩

theorem WorksAt.keeps (works : WorksAt e before after) {x : ParkEntry} (hx : x ∈ before)
    (other : ¬(x.port = e.port ∧ x.tag = e.tag)) : x ∈ after := by
  obtain ⟨f, rfl, others, -⟩ := works
  exact List.mem_filterMap.2 ⟨x, hx, others x other⟩

theorem WorksAt.elsewhere (works : WorksAt e before after) {c : CellIx}
    (own : ∀ x ∈ before, x.port = e.port → x.tag = e.tag → x.cell = c) :
    after.filter (fun x => x.cell != c) = before.filter (fun x => x.cell != c) := by
  obtain ⟨f, rfl, others, same⟩ := works
  rw [← List.filterMap_eq_filter, List.filterMap_filterMap]
  refine List.filterMap_congr (fun x hx => ?_)
  by_cases key : x.port = e.port ∧ x.tag = e.tag
  · have cell := own x hx key.1 key.2
    cases fx : f x with
    | none => simp [Option.guard, cell]
    | some y => simp [Option.guard, cell, (same x y fx).cell]
  · rw [others x key, Option.bind_some]

end WorksAt

/-- What work on one cell's chain keeps: one entry for a port and a tag, the entries it started with as long as they stay,
the other chains and the other cells. -/
structure Within (c : CellIx) (s t : State) : Prop where
  once : OneEach t.park
  origin : ∀ x ∈ t.park, ∃ y ∈ s.park, x.SameOp y
  chains : t.park.filter (fun x => x.cell != c) = s.park.filter (fun x => x.cell != c)
  cells : ∀ d, d ≠ c → t.readCell d = s.readCell d

theorem Within.rest {c : CellIx} {s : State} (once : OneEach s.park) : Within c s s :=
  ⟨once, fun x hx => ⟨x, hx, .refl x⟩, rfl, fun _ _ => rfl⟩

theorem Within.trans {c : CellIx} {s t u : State} (h : Within c s t) (k : Within c t u) : Within c s u where
  once := k.once
  origin x hx := by
    obtain ⟨y, hy, same⟩ := k.origin x hx
    obtain ⟨z, hz, same'⟩ := h.origin y hy
    exact ⟨z, hz, same.trans same'⟩
  chains := k.chains.trans h.chains
  cells d other := (k.cells d other).trans (h.cells d other)

/-- An entry of a cell's chain, as the Park List holds it, but for its last evaluation. -/
def State.Parks (s : State) (c : CellIx) (e : ParkEntry) : Prop := e.cell = c ∧ ∃ x ∈ s.park, x.SameOp e

theorem Within.of_worksAt {c : CellIx} {e : ParkEntry} {s t : State} (once : OneEach s.park) (parks : s.Parks c e)
    (works : WorksAt e s.park t.park) (cells : ∀ d, d ≠ c → t.readCell d = s.readCell d) : Within c s t where
  once := works.once once
  origin _ hx := works.origin hx
  chains := works.elsewhere (fun x hx port tag => by
    obtain ⟨cell, y, hy, same⟩ := parks
    rw [once.eq hx hy (port.trans same.port.symm) (tag.trans same.tag.symm), same.cell, cell])
  cells := cells

theorem State.evalParked_worksAt (e : ParkEntry) (s : State) : WorksAt e s.park (s.evalParked e).state.park := by
  obtain ⟨-, eval⟩ | ⟨v, o, r, -, ⟨-, eval⟩ | ⟨-, -, eval⟩ | ⟨-, -, eval⟩⟩ := s.evalParked_cases e
  · rw [eval]
    exact .rest e s.park
  · rw [eval]
    exact .renewed e v o s
  · rw [eval]
    exact .unparked e s.park
  · rw [eval, State.putCell_park]
    exact .unparked e s.park

theorem State.evalParked_otherCells (e : ParkEntry) (s : State) {d : CellIx} (other : d ≠ e.cell) :
    (s.evalParked e).state.readCell d = s.readCell d := by
  obtain ⟨-, eval⟩ | ⟨v, o, r, -, ⟨-, eval⟩ | ⟨-, -, eval⟩ | ⟨-, -, eval⟩⟩ := s.evalParked_cases e
  · rw [eval]
  · rw [eval]
    rfl
  · rw [eval]
    rfl
  · rw [eval, State.putCell_read_other _ _ other]
    rfl

/-- An evaluation that does not change its cell leaves every cell as it is (R29). -/
theorem State.evalParked_unchanged {e : ParkEntry} {s : State} (same : (s.evalParked e).changed = false) (d : CellIx) :
    (s.evalParked e).state.readCell d = s.readCell d := by
  by_cases other : d = e.cell
  · obtain ⟨-, eval⟩ | ⟨v, o, r, live, ⟨-, eval⟩ | ⟨-, -, eval⟩ | ⟨-, -, eval⟩⟩ := s.evalParked_cases e
    · rw [eval]
    · rw [eval]
      rfl
    · rw [eval]
      rfl
    · rw [eval, opChanges, Bool.or_eq_false_iff, bne_eq_false_iff_eq, bne_eq_false_iff_eq] at same
      rw [eval, other, State.putCell_read_same, live, opRecord, same.1, same.2]
  · exact State.evalParked_otherCells e s other

section Pass

variable {c : CellIx}

theorem State.evalParked_within {e : ParkEntry} {s : State} (once : OneEach s.park) (parks : s.Parks c e) :
    Within c s (s.evalParked e).state :=
  .of_worksAt once parks (s.evalParked_worksAt e) (fun _ other => State.evalParked_otherCells e s (parks.1 ▸ other))

theorem State.evalParked_parks {e x : ParkEntry} {s : State} (apart : ¬(x.port = e.port ∧ x.tag = e.tag)) (parks : s.Parks c x) :
    (s.evalParked e).state.Parks c x := by
  obtain ⟨cell, y, hy, same⟩ := parks
  exact ⟨cell, y, (s.evalParked_worksAt e).keeps hy (fun key => apart ⟨same.port ▸ key.1, same.tag ▸ key.2⟩), same⟩

/-- The entries a pass is made over: of the chain, one for a port and a tag. -/
structure Passable (c : CellIx) (l : List ParkEntry) (s : State) : Prop where
  list : OneEach l
  park : OneEach s.park
  parks : ∀ e ∈ l, s.Parks c e

theorem Passable.next {e : ParkEntry} {rest : List ParkEntry} {s : State} (h : Passable c (e :: rest) s) :
    Passable c rest (s.evalParked e).state := by
  obtain ⟨apart, list⟩ := List.pairwise_cons.1 h.list
  refine ⟨list, (State.evalParked_within h.park (h.parks e List.mem_cons_self)).once, fun x hx => ?_⟩
  exact State.evalParked_parks (fun key => apart x hx ⟨key.1.symm, key.2.symm⟩) (h.parks x (List.mem_cons_of_mem _ hx))

theorem cascadePass_within {l : List ParkEntry} {s : State} (h : Passable c l s) : Within c s (cascadePass l s).state := by
  induction l generalizing s with
  | nil => exact .rest h.park
  | cons e rest ih => exact (State.evalParked_within h.park (h.parks e List.mem_cons_self)).trans (ih h.next)

theorem cascadePass_unchanged {l : List ParkEntry} {s : State} (same : (cascadePass l s).changed = false) (d : CellIx) :
    (cascadePass l s).state.readCell d = s.readCell d := by
  induction l generalizing s with
  | nil => rfl
  | cons e rest ih =>
    obtain ⟨first, later⟩ := Bool.or_eq_false_iff.1 (same : ((s.evalParked e).changed || (cascadePass rest _).changed) = false)
    exact (ih later).trans (State.evalParked_unchanged first d)

/-- An evaluation leaves its entry only when its guard is false on the cell. -/
theorem State.evalParked_left {e x : ParkEntry} {s : State} {v : Word} {o : Option Port} {r : Option Word}
    (once : OneEach s.park) (parks : s.Parks c e) (live : s.readCell c = .live v o r) (hx : x ∈ (s.evalParked e).state.park)
    (port : x.port = e.port) (tag : x.tag = e.tag) : guardHolds x.op x.port v o = false := by
  obtain ⟨cell, z, hz, sameZ⟩ := parks
  obtain ⟨y, hy, sameY⟩ := (s.evalParked_worksAt e).origin hx
  have own : y = z := once.eq hy hz (sameY.port.symm.trans (port.trans sameZ.port.symm))
    (sameY.tag.symm.trans (tag.trans sameZ.tag.symm))
  have op : x.op = e.op := sameY.op.trans (own ▸ sameZ.op)
  have removed : x ∉ s.park.filter (fun y => !(y.isOf e.port e.tag)) := fun still => by
    have := (List.mem_filter.1 still).2
    rw [ParkEntry.isOf_iff.2 ⟨port, tag⟩] at this
    cases this
  subst cell
  obtain ⟨dead, -⟩ | ⟨v', o', r', live', ⟨guard, eval⟩ | ⟨-, -, eval⟩ | ⟨-, -, eval⟩⟩ := s.evalParked_cases e
  · exact absurd ⟨v, o, r, live⟩ dead
  · cases live.symm.trans live'
    rw [op, port]
    exact guard
  · rw [eval] at hx
    exact absurd hx removed
  · rw [eval, State.putCell_park] at hx
    exact absurd hx removed

/-- A pass that does not change the cell leaves only entries whose guard is false, of those it was made over. -/
theorem cascadePass_left {l : List ParkEntry} {s : State} {v : Word} {o : Option Port} {r : Option Word}
    (h : Passable c l s) (same : (cascadePass l s).changed = false) (live : s.readCell c = .live v o r) :
    ∀ x ∈ (cascadePass l s).state.park, ∀ e ∈ l, x.port = e.port → x.tag = e.tag → guardHolds x.op x.port v o = false := by
  induction l generalizing s with
  | nil => simp
  | cons e rest ih =>
    obtain ⟨first, later⟩ := Bool.or_eq_false_iff.1 (same : ((s.evalParked e).changed || (cascadePass rest _).changed) = false)
    intro x hx y hy port tag
    obtain rfl | inRest := List.mem_cons.1 hy
    · obtain ⟨z, hz, sameZ⟩ := (cascadePass_within h.next).origin x hx
      rw [sameZ.op, sameZ.port]
      exact State.evalParked_left h.park (h.parks y List.mem_cons_self) live hz (sameZ.port.symm.trans port)
        (sameZ.tag.symm.trans tag)
    · exact ih h.next later ((State.evalParked_unchanged first c).trans live) x hx y inRest port tag

theorem State.chain_passable {s : State} (once : OneEach s.park) : Passable c (s.chain c) s :=
  ⟨once.filter _, once, fun e he => ⟨State.cell_of_mem_chain he, e, List.mem_of_mem_filter he, .refl e⟩⟩

end Pass

/-- No entry on the cell has a guard that holds. -/
def State.Released (c : CellIx) (s : State) : Prop :=
  ∀ e ∈ s.park, e.cell = c → ∀ v o r, s.readCell c = .live v o r → guardHolds e.op e.port v o = false

theorem cascadePass_released {c : CellIx} {s : State} (once : OneEach s.park)
    (same : (cascadePass (s.chain c) s).changed = false) : (cascadePass (s.chain c) s).state.Released c := by
  have passable := State.chain_passable (c := c) once
  intro x hx cell v o r live
  obtain ⟨y, hy, sameY⟩ := (cascadePass_within passable).origin x hx
  have inChain : y ∈ s.chain c := List.mem_filter.2 ⟨hy, by simpa [← sameY.cell] using cell⟩
  exact cascadePass_left passable same ((cascadePass_unchanged same c).symm.trans live) x hx y inChain sameY.port sameY.tag

theorem expireInCascade_within {c : CellIx} (n : Nat) {s : State} (once : OneEach s.park) :
    Within c s (expireInCascade c n s) := by
  induction n generalizing s with
  | zero => exact .rest once
  | succ n ih =>
    obtain same | same | ⟨m, x, number, overdue, ended⟩ := expireInCascade_cases c (n + 1) s
    · rw [same]
      exact .rest once
    · rw [same]
      exact ⟨once, fun x hx => ⟨x, hx, .refl x⟩, rfl, fun _ _ => rfl⟩
    · cases number
      obtain ⟨parked, cell, -⟩ := State.mem_overdue overdue
      rw [ended]
      have first : Within c s (State.endParked x .expired { s with choices := s.choices + 1 }) := by
        rw [State.endParked, State.answerParked, State.replyUp_frame]
        exact .of_worksAt once ⟨cell, x, parked, .refl x⟩ (.unparked x s.park) (fun _ _ => rfl)
      exact first.trans (ih first.once)

theorem State.Released.expired {c : CellIx} {s : State} (n : Nat) (released : s.Released c) : (expireInCascade c n s).Released c := by
  intro e he cell v o r live
  rw [State.readCell, expireInCascade_cells] at live
  exact released e ((expireInCascade_park c n s).subset he) cell v o r live

theorem cascadeSteps_within {c : CellIx} (n : Nat) {x : Evaluated} (once : OneEach x.state.park)
    (ended : x.changed = false → x.state.Released c) :
    Within c x.state (cascadeSteps c n x).state ∧
      ((cascadeSteps c n x).changed = false → (cascadeSteps c n x).state.Released c) := by
  induction n generalizing x with
  | zero => exact ⟨.rest once, ended⟩
  | succ n ih =>
    cases changed : x.changed with
    | false =>
      rw [cascadeSteps_ended c (n + 1) changed]
      exact ⟨.rest once, ended⟩
    | true =>
      have pass := cascadePass_within (State.chain_passable (c := c) once)
      have expiries := expireInCascade_within (c := c)
        ((cascadePass (x.state.chain c) x.state).state.overdue c).length pass.once
      have step := pass.trans expiries
      have here : (cascadeStep c x) =
          { state := expireInCascade c ((cascadePass (x.state.chain c) x.state).state.overdue c).length
              (cascadePass (x.state.chain c) x.state).state
            answers := x.answers ++ (cascadePass (x.state.chain c) x.state).answers
            changed := (cascadePass (x.state.chain c) x.state).changed } := if_pos changed
      obtain ⟨later, released⟩ := ih (x := cascadeStep c x) (by rw [here]; exact step.once)
        (by rw [here]; exact fun same => (cascadePass_released once same).expired _)
      refine ⟨?_, released⟩
      rw [here] at later
      rw [cascadeSteps, here]
      exact step.trans later

/-- Settles O37: a cascade ends with a pass that changed nothing, and such a pass leaves only entries that stay. -/
theorem cascadeReleasesWhatItCan : Obligations.CascadeReleasesWhatItCan := by
  unfold Obligations.CascadeReleasesWhatItCan
  intro c s once left
  obtain ⟨within, released⟩ := cascadeSteps_within (c := c) ((s.chain c).length + 1)
    (x := { state := s, answers := [], changed := true }) once nofun
  have ended := cascadeSteps_end (c := c) ((s.chain c).length + 1) (x := { state := s, answers := [], changed := true })
    (fun _ => Nat.lt_succ_self _)
  have elsewhere := State.cascade_elsewhere c s
  exact ⟨released ended, within.cells, within.chains, elsewhere.events, elsewhere.watches⟩

end Sys2Proof.Machine

namespace Sys2Proof.Machine

/-! ### Counting what is to be answered (R84, R135, R152)

The invariant of the tags is proved by counting. What is to be answered is counted for one port and one tag at a time, and
the count is at most one for a tag that is OUTSTANDING and zero for one that is FREE. Within a command three things are on
their way and counted beside the state: requests owed an answer, answers that accesses in progress have in hand, and the
bank whose group write or recovery access has been reported already. -/

/-- Whether an access performs a port's cell request with a tag. -/
def Access.asks (p : Port) (t : Tag) (a : Access) : Bool := a.isHost && !a.isGroupWrite && a.port == p && a.tag == some t

/-- Whether an access is a group write of a port's INIT_CELLS with a tag. -/
def Access.writes (p : Port) (t : Tag) (a : Access) : Bool := a.isGroupWrite && a.port == p && a.tag == some t

/-- Whether an access is a recovery access of a port. -/
def Access.recovers (p : Port) (a : Access) : Bool := !a.isHost && a.port == p

/-- Whether an access is a host access of a port. -/
def Access.hosts (p : Port) (a : Access) : Bool := a.isHost && a.port == p

/-- Whether a test of accesses does not look at their bypass counts. -/
def Blind (f : Access → Bool) : Prop := ∀ (a : Access) (n : Nat), f { a with bypass := n } = f a

theorem Access.asks_blind (p : Port) (t : Tag) : Blind (Access.asks p t) := fun _ _ => rfl
theorem Access.writes_blind (p : Port) (t : Tag) : Blind (Access.writes p t) := fun _ _ => rfl
theorem Access.recovers_blind (p : Port) : Blind (Access.recovers p) := fun _ _ => rfl
theorem Access.hosts_blind (p : Port) : Blind (Access.hosts p) := fun _ _ => rfl

/-- How many accesses of a bank meet a test, its current one left out when it is cut. -/
def BankCtl.tally (f : Access → Bool) (cut : Bool) (k : BankCtl) : Nat :=
  k.queue.countP f + if cut then 0 else k.current.toList.countP f

/-- How many accesses of the part meet a test, the current ones of some banks left out. -/
def State.tally (f : Access → Bool) (cut : List Bank) (s : State) : Nat :=
  (allFour.map (fun b => (s.bank b).tally f (cut.contains b))).sum

/-- Whether an INIT_CELLS in flight is that of a port and a tag. -/
def InitFlight.isOf (p : Port) (t : Tag) (i : InitFlight) : Bool := i.port == p && i.tag == t

/-- What a bank performs in a command that has gone on within the access: the access, and the requests whose answers it
has in hand. -/
structure Grip where
  bank : Bank
  access : Access
  answers : List (Port × Tag)

/-- The banks whose accesses are in hand. -/
def gripped (hand : List Grip) : List Bank := hand.map (fun g => g.bank)

/-- What is to be answered for a port and a tag as long as the port is UP. -/
def State.inWork (s : State) (hand : List Grip) (p : Port) (t : Tag) : Nat :=
  (hand.flatMap (fun g => g.answers)).count (p, t) + s.tally (Access.asks p t) (gripped hand) +
    s.config.inits.countP (InitFlight.isOf p t)

/-- The requests held. -/
def State.heldRequests (s : State) : List (Port × Tag) := s.config.heldCommits ++ s.config.heldReopens ++ s.refresh.heldWakes

/-- What is to be answered for a port and a tag whatever the port's state. -/
def State.inStore (s : State) (p : Port) (t : Tag) : Nat :=
  s.park.countP (ParkEntry.isOf p t) + s.heldRequests.count (p, t) + (s.hpu p).heldJoin.toList.count t +
    (s.hpu p).sendList.countP (fun r => r.tag == t)

/-- How often a port's tag may be waited for. -/
def State.allowed (s : State) (p : Port) (t : Tag) : Nat := if s.tagState p t = .outstanding then 1 else 0

/-- The teardown of a port awaits a bank. -/
def State.Awaits (s : State) (p : Port) (b : Bank) : Prop :=
  ∃ r, s.teardown.get p = some r ∧ r.phase = .awaiting ∧ r.awaited.get b = true

/-- The teardown of a port waits for a recovery access. -/
def State.Recovers (s : State) (p : Port) : Prop := ∃ r, s.teardown.get p = some r ∧ r.phase = .recovering

/-- The invariant of the tags within a command: some requests are owed an answer, some accesses are in hand, and the work
of some banks has been reported. -/
structure State.Tagged (owed : List (Port × Tag)) (hand : List Grip) (done : List Bank) (s : State) : Prop where
  load : ∀ p t, owed.count (p, t) + (if s.isUp p = true then s.inWork hand p t else 0) + s.inStore p t ≤ s.allowed p t
  flights : ∀ p t, s.tally (Access.writes p t) done = s.config.inits.countP (InitFlight.isOf p t) ∧
    s.config.inits.countP (InitFlight.isOf p t) ≤ 1
  recovering : ∀ p, s.tally (Access.recovers p) done ≤ 1 ∧ (0 < s.tally (Access.recovers p) done → s.Recovers p)
  queued : ∀ b, ∀ a ∈ (s.bank b).queue, a.isHost = true → (s.hpu a.port).port = .up
  left : ∀ b, ∀ a ∈ (s.bank b).current.toList, a.isHost = true → (s.hpu a.port).port ≠ .up → s.Awaits a.port b
  once : (gripped hand).Nodup
  reported : done ⊆ gripped hand
  held : ∀ g ∈ hand, (∃ row, (s.bank g.bank).state = .accessing row) ∧ (s.bank g.bank).current = some g.access
  waits : ∀ g ∈ hand, ∀ x ∈ g.answers, (s.hpu x.1).port = .up ∨ s.Awaits x.1 g.bank

/-! ### The sums over the four banks -/

theorem sumFour_congr {g h : Fin 4 → Nat} (same : ∀ b, g b = h b) : (allFour.map g).sum = (allFour.map h).sum := by
  rw [funext same]

/-- A sum over the four in which one term changed. -/
theorem sumFour_one {g h : Fin 4 → Nat} (b : Fin 4) (others : ∀ d, d ≠ b → h d = g d) :
    (allFour.map h).sum + g b = (allFour.map g).sum + h b := by
  have split (f : Fin 4 → Nat) : (allFour.map f).sum = f 0 + f 1 + f 2 + f 3 := by
    simp [allFour, Nat.add_assoc]
  rw [split, split]
  fin_cases b
  · have h1 := others 1 (by decide); have h2 := others 2 (by decide); have h3 := others 3 (by decide)
    simp only [Fin.zero_eta, Fin.isValue] at *
    omega
  · have h1 := others 0 (by decide); have h2 := others 2 (by decide); have h3 := others 3 (by decide)
    simp only [Fin.mk_one, Fin.isValue] at *
    omega
  · have h1 := others 0 (by decide); have h2 := others 1 (by decide); have h3 := others 3 (by decide)
    simp only [Fin.reduceFinMk, Fin.isValue] at *
    omega
  · have h1 := others 0 (by decide); have h2 := others 1 (by decide); have h3 := others 2 (by decide)
    simp only [Fin.reduceFinMk, Fin.isValue] at *
    omega

theorem sumFour_le {g h : Fin 4 → Nat} (le : ∀ b, g b ≤ h b) : (allFour.map g).sum ≤ (allFour.map h).sum := by
  have split (f : Fin 4 → Nat) : (allFour.map f).sum = f 0 + f 1 + f 2 + f 3 := by
    simp [allFour, Nat.add_assoc]
  rw [split, split]
  have h0 := le 0; have h1 := le 1; have h2 := le 2; have h3 := le 3
  omega

theorem sumFour_term_le (g : Fin 4 → Nat) (b : Fin 4) : g b ≤ (allFour.map g).sum :=
  List.single_le_sum (fun _ _ => Nat.zero_le _) _ (List.mem_map_of_mem (mem_allFour b))

theorem State.tally_congr {f : Access → Bool} {cut : List Bank} {s t : State}
    (same : ∀ b, (t.bank b).tally f (cut.contains b) = (s.bank b).tally f (cut.contains b)) : t.tally f cut = s.tally f cut :=
  sumFour_congr same

theorem State.tally_zero {f : Access → Bool} {cut : List Bank} {s : State}
    (none : ∀ b, ∀ a ∈ (s.bank b).queue ++ (s.bank b).current.toList, f a = false) : s.tally f cut = 0 := by
  have zero : ∀ b, (s.bank b).tally f (cut.contains b) = 0 := by
    intro b
    have count (l : List Access) (sub : l ⊆ (s.bank b).queue ++ (s.bank b).current.toList) : l.countP f = 0 :=
      List.countP_eq_zero.2 (fun a ha => by simp [none b a (sub ha)])
    rw [BankCtl.tally, count _ (List.subset_append_left _ _), count _ (List.subset_append_right _ _)]
    split <;> rfl
  rw [State.tally, sumFour_congr zero]
  rfl

/-! ### The invariant as the statement gives it -/

theorem State.tally_nil (f : Access → Bool) (s : State) : s.tally f [] = s.accesses.countP f := by
  rw [State.accesses, List.countP_flatMap, State.tally]
  refine sumFour_congr (fun b => ?_)
  simp [BankCtl.tally]

theorem count_requests (q : Access → Bool) (l : List Access) (p : Port) (t : Tag) :
    ((l.filter q).filterMap Access.request).count (p, t) = l.countP (fun a => q a && a.port == p && a.tag == some t) := by
  rw [List.count_eq_countP, List.countP_filterMap, List.countP_filter]
  refine List.countP_congr (fun a _ => ?_)
  cases tag : a.tag with
  | none => simp [Access.request, tag]
  | some u => simp [Access.request, tag, Prod.ext_iff, and_comm, and_assoc]

theorem count_perPort (l : Port → List Tag) (p : Port) (t : Tag) :
    (allFour.flatMap (fun q => (l q).map (fun u => (q, u)))).count (p, t) = (l p).count t := by
  rw [List.count_eq_countP, List.countP_flatMap]
  have one : ∀ q, ((fun x => x == (p, t)) ∘ fun u => (q, u)) = fun u => (q == p) && u == t := by
    intro q
    funext u
    exact Bool.eq_iff_iff.2 (by simp [Prod.ext_iff])
  have terms : (List.countP (fun x => x == (p, t)) ∘ fun q => (l q).map (fun u => (q, u))) =
      fun q => if q = p then (l p).count t else 0 := by
    funext q
    rw [Function.comp_apply, List.countP_map, one]
    by_cases same : q = p
    · subst same
      simp [List.count_eq_countP]
    · simp [same]
  rw [terms]
  fin_cases p <;> simp [allFour]

theorem State.groupWrites_count (s : State) (p : Port) (t : Tag) :
    s.groupWrites.count (p, t) = s.tally (Access.writes p t) [] := by
  rw [State.groupWrites, count_requests, State.tally_nil]
  rfl

theorem State.recoveries_count (s : State) (p : Port) : s.recoveries.count p = s.tally (Access.recovers p) [] := by
  rw [State.recoveries, State.tally_nil, List.count_eq_countP, List.countP_map, List.countP_filter]
  exact List.countP_congr (fun a _ => by simp [Access.recovers, and_comm])

theorem State.flights_count (s : State) (p : Port) (t : Tag) :
    (s.config.inits.map (fun i => (i.port, i.tag))).count (p, t) = s.config.inits.countP (InitFlight.isOf p t) := by
  rw [List.count_eq_countP, List.countP_map]
  exact List.countP_congr (fun i _ => by simp [InitFlight.isOf, Prod.ext_iff])

theorem State.openRequests_count (s : State) (p : Port) (t : Tag) :
    s.openRequests.count (p, t) = (if s.isUp p = true then s.inWork [] p t else 0) + s.inStore p t := by
  have park : (s.park.map (fun e => (e.port, e.tag))).count (p, t) = s.park.countP (ParkEntry.isOf p t) := by
    rw [List.count_eq_countP, List.countP_map]
    exact List.countP_congr (fun e _ => by simp [ParkEntry.isOf, Prod.ext_iff])
  have asks : ((s.accesses.filter (fun a => a.isHost && !a.isGroupWrite && s.isUp a.port)).filterMap Access.request).count (p, t) =
      if s.isUp p = true then s.tally (Access.asks p t) [] else 0 := by
    rw [count_requests, State.tally_nil]
    split
    · rename_i up
      refine List.countP_congr (fun a _ => ?_)
      simp only [Access.asks, Bool.and_eq_true, beq_iff_eq]
      exact ⟨fun ⟨⟨⟨⟨h, w⟩, _⟩, q⟩, g⟩ => ⟨⟨⟨h, w⟩, q⟩, g⟩, fun ⟨⟨⟨h, w⟩, q⟩, g⟩ => ⟨⟨⟨⟨h, w⟩, q ▸ up⟩, q⟩, g⟩⟩
    · rename_i gone
      refine List.countP_eq_zero.2 (fun a _ own => ?_)
      simp only [Bool.and_eq_true, beq_iff_eq] at own
      obtain ⟨⟨⟨-, up⟩, port⟩, -⟩ := own
      exact gone (port ▸ up)
  have flights : ((s.config.inits.filter (fun i => s.isUp i.port)).map (fun i => (i.port, i.tag))).count (p, t) =
      if s.isUp p = true then s.config.inits.countP (InitFlight.isOf p t) else 0 := by
    rw [List.count_eq_countP, List.countP_map, List.countP_filter]
    split
    · rename_i up
      refine List.countP_congr (fun i _ => ?_)
      simp only [Function.comp_apply, InitFlight.isOf, Bool.and_eq_true, beq_iff_eq, Prod.ext_iff]
      exact ⟨fun ⟨key, _⟩ => key, fun key => ⟨key, key.1 ▸ up⟩⟩
    · rename_i gone
      refine List.countP_eq_zero.2 (fun i _ own => ?_)
      simp only [Function.comp_apply, Bool.and_eq_true, beq_iff_eq, Prod.ext_iff] at own
      obtain ⟨⟨port, -⟩, up⟩ := own
      exact gone (port ▸ up)
  have joins : (allFour.filterMap (fun q => (s.hpu q).heldJoin.map (fun u => (q, u)))).count (p, t) =
      (s.hpu p).heldJoin.toList.count t := by
    have flat : allFour.filterMap (fun q => (s.hpu q).heldJoin.map (fun u => (q, u))) =
        allFour.flatMap (fun q => (s.hpu q).heldJoin.toList.map (fun u => (q, u))) := by
      rw [List.filterMap_eq_flatMap_toList]
      exact List.flatMap_congr (fun q _ => by cases (s.hpu q).heldJoin <;> rfl)
    rw [flat]
    exact count_perPort (fun q => (s.hpu q).heldJoin.toList) p t
  have sends : (allFour.flatMap (fun q => (s.hpu q).sendList.map (fun r => (q, r.tag)))).count (p, t) =
      (s.hpu p).sendList.countP (fun r => r.tag == t) := by
    have lists := count_perPort (fun q => (s.hpu q).sendList.map (fun r => r.tag)) p t
    rw [List.count_eq_countP (a := t), List.countP_map] at lists
    simpa only [List.map_map, Function.comp_def] using lists
  simp only [State.openRequests, List.count_append, park, asks, flights, joins, sends, State.inWork, State.inStore,
    State.heldRequests, List.flatMap_nil, List.count_nil, gripped, List.map_nil]
  split <;> omega

theorem State.tagged_iff {s : State} : s.TagsOk ↔ s.Tagged [] [] [] := by
  have load : (∀ p t, ([] : List (Port × Tag)).count (p, t) + (if s.isUp p = true then s.inWork [] p t else 0) + s.inStore p t ≤
      s.allowed p t) ↔ s.openRequests.Nodup ∧ ∀ x ∈ s.openRequests, s.tagState x.1 x.2 = .outstanding := by
    simp only [List.count_nil, Nat.zero_add, ← State.openRequests_count]
    refine ⟨fun h => ⟨List.nodup_iff_count_le_one.2 (fun ⟨p, t⟩ => ?_), fun ⟨p, t⟩ mem => ?_⟩,
      fun ⟨once, outstanding⟩ p t => ?_⟩
    · exact (h p t).trans (by unfold State.allowed; split <;> omega)
    · have positive := List.count_pos_iff.2 mem
      have bound := h p t
      by_contra free
      rw [State.allowed, if_neg free] at bound
      exact absurd positive (not_lt.2 bound)
    · by_cases mem : (p, t) ∈ s.openRequests
      · rw [State.allowed, if_pos (outstanding _ mem)]
        exact List.nodup_iff_count_le_one.1 once _
      · rw [List.count_eq_zero_of_not_mem mem]
        exact Nat.zero_le _
  have flights : (∀ p t, s.tally (Access.writes p t) [] = s.config.inits.countP (InitFlight.isOf p t) ∧
      s.config.inits.countP (InitFlight.isOf p t) ≤ 1) ↔
      s.groupWrites.Perm (s.config.inits.map (fun i => (i.port, i.tag))) ∧ s.groupWrites.Nodup := by
    rw [List.perm_iff_count, List.nodup_iff_count_le_one]
    refine ⟨fun h => ⟨fun ⟨p, t⟩ => ?_, fun ⟨p, t⟩ => ?_⟩, fun ⟨same, once⟩ p t => ⟨?_, ?_⟩⟩
    · rw [State.groupWrites_count, State.flights_count]
      exact (h p t).1
    · rw [State.groupWrites_count, (h p t).1]
      exact (h p t).2
    · rw [← State.groupWrites_count, ← State.flights_count]
      exact same (p, t)
    · rw [← State.flights_count, ← same]
      exact once (p, t)
  have recovering : (∀ p, s.tally (Access.recovers p) [] ≤ 1 ∧ (0 < s.tally (Access.recovers p) [] → s.Recovers p)) ↔
      s.recoveries.Nodup ∧ ∀ p ∈ s.recoveries, s.Recovers p := by
    rw [List.nodup_iff_count_le_one]
    simp only [← State.recoveries_count, List.count_pos_iff]
    exact forall_and
  constructor
  · intro ok
    exact ⟨load.2 ⟨ok.once, ok.outstanding⟩, flights.2 ok.flights, recovering.2 ⟨ok.oneRecovery, ok.recovering⟩, ok.queued, ok.left,
      List.nodup_nil, List.nil_subset _, List.forall_mem_nil _, List.forall_mem_nil _⟩
  · intro ok
    obtain ⟨once, outstanding⟩ := load.1 ok.load
    obtain ⟨oneRecovery, recovers⟩ := recovering.1 ok.recovering
    exact ⟨outstanding, once, flights.1 ok.flights, ok.queued, ok.left, recovers, oneRecovery⟩

end Sys2Proof.Machine

namespace Sys2Proof.Machine

/-! ### What leaves the counts as they are -/

/-- A bank's own steps: its accesses stay but for their bypass counts, one may be picked when none is current. -/
structure BankCtl.Works (k k' : BankCtl) : Prop where
  total : ∀ f, Blind f → k'.queue.countP f + k'.current.toList.countP f = k.queue.countP f + k.current.toList.countP f
  waiting : ∀ f, Blind f → k'.queue.countP f ≤ k.queue.countP f
  current : ∀ a, k.current = some a → k'.current = some a

theorem BankCtl.Works.refl (k : BankCtl) : k.Works k := ⟨fun _ _ => rfl, fun _ _ => le_rfl, fun _ h => h⟩

theorem BankCtl.Works.trans {k k' k'' : BankCtl} (h : k.Works k') (h' : k'.Works k'') : k.Works k'' :=
  ⟨fun f blind => (h'.total f blind).trans (h.total f blind), fun f blind => (h'.waiting f blind).trans (h.waiting f blind),
    fun a current => h'.current a (h.current a current)⟩

theorem BankCtl.Works.relabel {k k' : BankCtl} (queue : k'.queue = k.queue) (current : k'.current = k.current) : k.Works k' :=
  ⟨fun f _ => by rw [queue, current], fun f _ => by rw [queue], fun a h => current.trans h⟩

theorem BankCtl.Works.pick (k : BankCtl) : k.Works k.pick := by
  obtain same | ⟨a, rest, free, chosen, picked⟩ := k.pick_cases
  · rw [same]
    exact .refl k
  · obtain ⟨older, younger, whole, left, -⟩ := chooseAccess_cases chosen
    obtain ⟨none, -⟩ := BankCtl.free_iff.1 free
    have count (f : Access → Bool) (blind : Blind f) : rest.countP f + [a].countP f = k.queue.countP f := by
      have aged : (older.map (fun x => { x with bypass := x.bypass + 1 })).countP f = older.countP f := by
        rw [List.countP_map]
        exact List.countP_congr (fun x _ => by rw [Function.comp_apply, blind])
      rw [whole, left, List.countP_append, List.countP_append, aged, List.countP_cons, List.countP_cons, List.countP_nil]
      omega
    rw [picked]
    refine ⟨fun f blind => ?_, fun f blind => ?_, fun x current => ?_⟩
    · rw [none, ← count f blind]
      rfl
    · rw [← count f blind]
      exact Nat.le_add_right _ _
    · rw [none] at current
      cases current

/-- A cut bank has a current access, which stays: so do the entries that wait. -/
theorem BankCtl.Works.tally {k k' : BankCtl} (works : k.Works k') {f : Access → Bool} (blind : Blind f) {cut : Bool}
    (busy : cut = true → ∃ a, k.current = some a) : k'.tally f cut = k.tally f cut := by
  have total := works.total f blind
  unfold BankCtl.tally
  cases cut with
  | false => exact total
  | true =>
    obtain ⟨a, current⟩ := busy rfl
    rw [current, works.current a current] at total
    simpa using total

/-- What the invariant of the tags sees of an HPU. -/
def Hpu.view (h : Hpu) : PortState × Eight TagState × Option Tag × List Response := (h.port, h.tags, h.heldJoin, h.sendList)

/-- What the invariant of the tags sees of a teardown record. -/
def TeardownRec.view (r : TeardownRec) : Phase × Four Bool := (r.phase, r.awaited)

/-- A change that leaves what is to be answered, but for parked entries that may leave. -/
structure Quiet (s t : State) : Prop where
  hpus : ∀ p, (t.hpu p).view = (s.hpu p).view
  park : ∀ p u, t.park.countP (ParkEntry.isOf p u) ≤ s.park.countP (ParkEntry.isOf p u)
  inits : t.config.inits = s.config.inits
  held : t.heldRequests = s.heldRequests
  banks : ∀ b, (s.bank b).Works (t.bank b)
  teardown : ∀ p, (t.teardown.get p).map TeardownRec.view = (s.teardown.get p).map TeardownRec.view

/-- A quiet change in which a bank that performs an access goes on performing it. -/
structure Steady (s t : State) : Prop extends Quiet s t where
  rows : ∀ b row a, (s.bank b).current = some a → (s.bank b).state = .accessing row → (t.bank b).state = .accessing row

theorem Quiet.trans {s t u : State} (h : Quiet s t) (k : Quiet t u) : Quiet s u where
  hpus p := (k.hpus p).trans (h.hpus p)
  park p v := (k.park p v).trans (h.park p v)
  inits := k.inits.trans h.inits
  held := k.held.trans h.held
  banks b := (h.banks b).trans (k.banks b)
  teardown p := (k.teardown p).trans (h.teardown p)

theorem Steady.refl (s : State) : Steady s s :=
  ⟨⟨fun _ => rfl, fun _ _ => le_rfl, rfl, rfl, fun _ => .refl _, fun _ => rfl⟩, fun _ _ _ _ h => h⟩

theorem Steady.trans {s t u : State} (h : Steady s t) (k : Steady t u) : Steady s u :=
  ⟨h.toQuiet.trans k.toQuiet, fun b row a current state =>
    k.rows b row a ((h.banks b).current a current) (h.rows b row a current state)⟩

/-- A change of what the invariant does not see. -/
theorem Steady.unseen {s t : State} (hpus : t.hpus = s.hpus) (park : t.park = s.park) (config : t.config = s.config)
    (wakes : t.refresh.heldWakes = s.refresh.heldWakes) (banks : t.banks = s.banks) (teardown : t.teardown = s.teardown) :
    Steady s t := by
  have bank : t.bank = s.bank := funext (fun b => by rw [State.bank, banks]; rfl)
  exact ⟨⟨fun p => by rw [State.hpu, hpus]; rfl, fun p u => by rw [park], by rw [config],
    by rw [State.heldRequests, config, wakes]; rfl, fun b => by rw [bank]; exact .refl _, fun p => by rw [teardown]⟩,
    fun b row a _ state => by rw [bank]; exact state⟩

theorem Steady.foldl {α : Type} {f : State → α → State} (one : ∀ t x, Steady t (f t x)) (l : List α) (s : State) :
    Steady s (l.foldl f s) := by
  induction l generalizing s with
  | nil => exact .refl s
  | cons x rest ih => exact (one s x).trans (ih _)

section Keep

variable {owed : List (Port × Tag)} {hand : List Grip} {done : List Bank} {s t : State}

theorem mem_gripped {b : Bank} : b ∈ gripped hand ↔ ∃ g ∈ hand, g.bank = b := List.mem_map

theorem State.Tagged.gripped_busy (ok : s.Tagged owed hand done) {b : Bank} (mem : b ∈ gripped hand) :
    ∃ a, (s.bank b).current = some a := by
  obtain ⟨g, hg, rfl⟩ := mem_gripped.1 mem
  exact ⟨g.access, (ok.held g hg).2⟩

theorem Quiet.port (q : Quiet s t) (p : Port) : (t.hpu p).port = (s.hpu p).port := congrArg (fun v => v.1) (q.hpus p)

theorem Quiet.isUp (q : Quiet s t) (p : Port) : t.isUp p = s.isUp p := by rw [State.isUp, q.port]; rfl

theorem Quiet.tagState (q : Quiet s t) (p : Port) (u : Tag) : t.tagState p u = s.tagState p u :=
  congrArg (fun v => v.2.1.get u) (q.hpus p)

theorem Quiet.record (q : Quiet s t) {p : Port} {r : TeardownRec} (record : s.teardown.get p = some r) :
    ∃ r', t.teardown.get p = some r' ∧ r'.phase = r.phase ∧ r'.awaited = r.awaited := by
  have view := q.teardown p
  rw [record] at view
  obtain ⟨r', record', same⟩ := Option.map_eq_some_iff.1 view
  exact ⟨r', record', congrArg Prod.fst same, congrArg Prod.snd same⟩

theorem Quiet.awaits (q : Quiet s t) {p : Port} {b : Bank} (h : s.Awaits p b) : t.Awaits p b := by
  obtain ⟨r, record, phase, awaited⟩ := h
  obtain ⟨r', record', phase', awaited'⟩ := q.record record
  exact ⟨r', record', phase'.trans phase, by rw [awaited', awaited]⟩

theorem Quiet.recovers (q : Quiet s t) {p : Port} (h : s.Recovers p) : t.Recovers p := by
  obtain ⟨r, record, phase⟩ := h
  obtain ⟨r', record', phase', -⟩ := q.record record
  exact ⟨r', record', phase'.trans phase⟩

theorem Quiet.inStore (q : Quiet s t) (p : Port) (u : Tag) : t.inStore p u ≤ s.inStore p u := by
  have join : (t.hpu p).heldJoin = (s.hpu p).heldJoin := congrArg (fun v => v.2.2.1) (q.hpus p)
  have send : (t.hpu p).sendList = (s.hpu p).sendList := congrArg (fun v => v.2.2.2) (q.hpus p)
  have park := q.park p u
  rw [State.inStore, State.inStore, q.held, join, send]
  omega

theorem Quiet.tally (q : Quiet s t) {f : Access → Bool} (blind : Blind f) {cut : List Bank}
    (busy : ∀ b ∈ cut, ∃ a, (s.bank b).current = some a) : t.tally f cut = s.tally f cut :=
  State.tally_congr (fun b => (q.banks b).tally blind (fun mem => busy b (List.contains_iff_mem.1 mem)))

/-- An access of a bank that a quiet change left it: it was there before, waiting or current. -/
theorem BankCtl.Works.mem {k k' : BankCtl} (works : k.Works k') {f : Access → Bool} (blind : Blind f)
    (none : ∀ a ∈ k.queue, f a = false) :
    (∀ a ∈ k'.queue, f a = false) ∧ ∀ a ∈ k'.current.toList, f a = true → a ∈ k.current.toList := by
  have zero : k.queue.countP f = 0 := List.countP_eq_zero.2 (fun a ha => by simp [none a ha])
  have waiting : k'.queue.countP f = 0 := Nat.le_zero.1 (zero ▸ works.waiting f blind)
  refine ⟨fun a ha => by simpa using List.countP_eq_zero.1 waiting a ha, fun a ha own => ?_⟩
  have total := works.total f blind
  rw [zero, waiting, Nat.zero_add, Nat.zero_add] at total
  have positive : 0 < k'.current.toList.countP f := List.countP_pos_iff.2 ⟨a, ha, own⟩
  rw [total] at positive
  obtain ⟨x, hx, -⟩ := List.countP_pos_iff.1 positive
  rw [Option.mem_toList] at hx ha ⊢
  rw [works.current x hx] at ha
  rw [hx, ha]

theorem Access.hosts_iff {p : Port} {a : Access} : a.hosts p = true ↔ a.isHost = true ∧ a.port = p := by
  rw [Access.hosts, Bool.and_eq_true, beq_iff_eq]

/-- A quiet change in which the accesses in hand go on keeps the invariant. -/
theorem State.Tagged.keep (ok : s.Tagged owed hand done) (q : Quiet s t)
    (rows : ∀ g ∈ hand, ∀ row, (s.bank g.bank).state = .accessing row → (t.bank g.bank).state = .accessing row) :
    t.Tagged owed hand done := by
  have busy : ∀ b ∈ gripped hand, ∃ a, (s.bank b).current = some a := fun b mem => ok.gripped_busy mem
  have busyDone : ∀ b ∈ done, ∃ a, (s.bank b).current = some a := fun b mem => busy b (ok.reported mem)
  have absent {b : Bank} {p : Port} (gone : (s.hpu p).port ≠ .up) : ∀ a ∈ (s.bank b).queue, a.hosts p = false := by
    intro a ha
    refine Bool.eq_false_iff.2 (fun own => ?_)
    obtain ⟨host, port⟩ := Access.hosts_iff.1 own
    exact gone (port ▸ ok.queued b a ha host)
  constructor
  case load =>
    intro p u
    have before := ok.load p u
    have work : t.inWork hand p u = s.inWork hand p u := by
      rw [State.inWork, q.tally (Access.asks_blind p u) busy, q.inits]
      rfl
    have store := q.inStore p u
    rw [q.isUp, work, State.allowed, q.tagState]
    exact (Nat.add_le_add_left store _).trans before
  case flights =>
    intro p u
    rw [q.tally (Access.writes_blind p u) busyDone, q.inits]
    exact ok.flights p u
  case recovering =>
    intro p
    rw [q.tally (Access.recovers_blind p) busyDone]
    exact (ok.recovering p).imp_right (fun waits some => q.recovers (waits some))
  case queued =>
    intro b a ha host
    rw [q.port]
    by_contra gone
    have := ((q.banks b).mem (Access.hosts_blind a.port) (absent gone)).1 a ha
    rw [Access.hosts_iff.2 ⟨host, rfl⟩] at this
    cases this
  case left =>
    intro b a ha host gone
    rw [q.port] at gone
    exact q.awaits (ok.left b a (((q.banks b).mem (Access.hosts_blind a.port) (absent gone)).2 a ha
      (Access.hosts_iff.2 ⟨host, rfl⟩)) host gone)
  case once => exact ok.once
  case reported => exact ok.reported
  case held =>
    intro g hg
    obtain ⟨⟨row, state⟩, current⟩ := ok.held g hg
    exact ⟨⟨row, rows g hg row state⟩, (q.banks g.bank).current _ current⟩
  case waits =>
    intro g hg x hx
    rw [q.port]
    exact (ok.waits g hg x hx).imp_right q.awaits

theorem State.Tagged.steady (ok : s.Tagged owed hand done) (c : Steady s t) : t.Tagged owed hand done :=
  ok.keep c.toQuiet (fun g hg row state => c.rows g.bank row g.access (ok.held g hg).2 state)

/-- With no access in hand every quiet change keeps the invariant. -/
theorem State.Tagged.quiet (ok : s.Tagged owed [] []) (q : Quiet s t) : t.Tagged owed [] [] :=
  ok.keep q (List.forall_mem_nil _)

end Keep

/-! ### The steady operations -/

theorem Steady.raise (p : Port) (e : Event) (s : State) : Steady s (s.raise p e) := by
  rw [State.raise_frame]
  exact .unseen rfl rfl rfl rfl rfl rfl

theorem Steady.raiseAll (e : Event) (s : State) : Steady s (s.raiseAll e) := .foldl (fun t p => .raise p e t) _ s

theorem Steady.raiseOthers (p : Port) (e : Event) (s : State) : Steady s (s.raiseOthers p e) := .foldl (fun t q => .raise q e t) _ s

theorem Steady.modEvents (p : Port) (f : EventPort → EventPort) (s : State) : Steady s (s.modEvents p f) :=
  .unseen rfl rfl rfl rfl rfl rfl

theorem Steady.setWatches (l : List Watch) (s : State) : Steady s { s with watches := l } := .unseen rfl rfl rfl rfl rfl rfl

theorem Steady.evalWatches (c : CellIx) (s : State) : Steady s (s.evalWatches c) := by
  rw [State.evalWatches_frame]
  exact .unseen rfl rfl rfl rfl rfl rfl

/-- A change of the teardown records that leaves each one's phase and awaited banks. -/
theorem Steady.setTeardown {s : State} {td : Four (Option TeardownRec)}
    (view : ∀ p, (td.get p).map TeardownRec.view = (s.teardown.get p).map TeardownRec.view) :
    Steady s { s with teardown := td } :=
  ⟨⟨fun _ => rfl, fun _ _ => le_rfl, rfl, rfl, fun _ => .refl _, view⟩, fun _ _ _ _ h => h⟩

theorem Steady.modTeardown {f : TeardownRec → TeardownRec} (view : ∀ r, (f r).view = r.view) (p : Port) (s : State) :
    Steady s (s.modTeardown p f) := by
  refine .setTeardown (fun q => ?_)
  by_cases same : q = p
  · subst same
    rw [Four.get_set_same]
    cases s.teardown.get q with
    | none => rfl
    | some r => exact congrArg some (view r)
  · rw [Four.get_set_other _ _ same]

theorem State.putCell_teardown_view (c : CellIx) (r : CellRec) (s : State) (p : Port) :
    ((s.putCell c r).teardown.get p).map TeardownRec.view = (s.teardown.get p).map TeardownRec.view := by
  rw [State.putCell_teardown]
  split
  · rfl
  · split
    · rw [Option.map_map]
      rfl
    · rfl

theorem Steady.putCell (c : CellIx) (r : CellRec) (s : State) : Steady s (s.putCell c r) := by
  refine ⟨⟨fun p => ?_, fun p u => ?_, ?_, ?_, fun b => ?_, State.putCell_teardown_view c r s⟩, fun b row a _ state => ?_⟩
  all_goals rw [State.putCell_frame]
  · rfl
  · rfl
  · exact .refl _
  · exact state

theorem Steady.writeGroup (i : InitFields) (g : CellIx) (s : State) : Steady s (s.writeGroup i g) :=
  .foldl (f := fun t c => t.putCell c (initRec i)) (fun t c => .putCell c _ t) _ s

/-- A change of the banks alone, each bank taking its own steps. -/
theorem Steady.setBanks {s : State} {banks : Four BankCtl} (works : ∀ b, (s.bank b).Works (banks.get b))
    (rows : ∀ b row a, (s.bank b).current = some a → (s.bank b).state = .accessing row → (banks.get b).state = .accessing row) :
    Steady s { s with banks := banks } :=
  ⟨⟨fun _ => rfl, fun _ _ => le_rfl, rfl, rfl, works, fun _ => rfl⟩, rows⟩

theorem Steady.modBank {s : State} {b : Bank} {f : BankCtl → BankCtl} (works : (s.bank b).Works (f (s.bank b)))
    (rows : ∀ row a, (s.bank b).current = some a → (s.bank b).state = .accessing row → (f (s.bank b)).state = .accessing row) :
    Steady s (s.modBank b f) := by
  refine .setBanks (fun d => ?_) (fun d row a current state => ?_)
  · by_cases same : d = b
    · subst same
      rw [Four.get_set_same]
      exact works
    · rw [Four.get_set_other _ _ same]
      exact .refl _
  · by_cases same : d = b
    · subst same
      rw [Four.get_set_same]
      exact rows row a current state
    · rw [Four.get_set_other _ _ same]
      exact state

theorem BankCtl.pick_accessing {k : BankCtl} {a : Access} (current : k.current = some a) : k.pick = k :=
  BankCtl.pick_busy (by simp [BankCtl.free, current])

theorem Steady.pickBank (b : Bank) (s : State) : Steady s (s.pickBank b) := by
  unfold State.pickBank
  split
  · exact .refl s
  · exact .modBank (.pick _) (fun row a current state => by rw [BankCtl.pick_accessing current]; exact state)

theorem Steady.setRefresh {s : State} {r : RefreshCtl} (wakes : r.heldWakes = s.refresh.heldWakes) : Steady s { s with refresh := r } :=
  .unseen rfl rfl rfl wakes rfl rfl

theorem Steady.holdBanks (s : State) : Steady s s.holdBanks := by
  refine (Steady.setBanks (banks := s.banks.map BankCtl.holdPlaced) (fun b => ?_) (fun b row a _ state => ?_)).trans
    (.setRefresh rfl)
  · rw [Four.get_map]
    exact .relabel (BankCtl.holdPlaced_queue _) (BankCtl.holdPlaced_current _)
  · rw [Four.get_map]
    change (s.bank b).holdPlaced.state = _
    rw [BankCtl.holdPlaced, state]
    exact state

theorem Steady.beginRefresh {s : State} (closed : s.heldClosed = true) : Steady s s.beginRefresh := by
  obtain ⟨-, -, idle⟩ := State.heldClosed_iff.1 closed
  refine (Steady.setBanks (banks := s.banks.map (fun k => { k with state := .refreshing })) (fun b => ?_)
    (fun b row a current state => ?_)).trans (.unseen rfl rfl rfl rfl rfl rfl)
  · rw [Four.get_map]
    exact .relabel rfl rfl
  · rw [(idle b).2] at current
    cases current

theorem Steady.testHeld (s : State) : Steady s s.testHeld := by
  unfold State.testHeld
  have begun : Steady s s.testRefreshStart := by
    unfold State.testRefreshStart
    split
    · rename_i due
      exact .beginRefresh (Bool.and_eq_true_iff.1 due).1
    · exact .refl s
  refine begun.trans ?_
  unfold State.testPlacingStart
  split
  · exact .setRefresh rfl
  · exact .refl _

theorem Steady.placeHold (s : State) : Steady s s.placeHold := (Steady.holdBanks s).trans (.testHeld _)

theorem Steady.testOpportunity (s : State) : Steady s s.testOpportunity := by
  unfold State.testOpportunity
  split
  · exact .placeHold s
  · exact .refl s

theorem Steady.testRetention (s : State) : Steady s s.testRetention := by
  unfold State.testRetention
  split
  · unfold State.enterRetention
    simp only
    have entered : Steady s (s.modRefresh (fun r => { r with power := .entering })) := .setRefresh rfl
    split
    · exact entered.trans (.testHeld _)
    · exact entered.trans (.placeHold _)
  · exact .refl s

/-- A change of the Park List alone that gives no port and tag a further entry. -/
theorem Steady.setPark {s : State} {l : List ParkEntry}
    (fewer : ∀ p u, l.countP (ParkEntry.isOf p u) ≤ s.park.countP (ParkEntry.isOf p u)) : Steady s { s with park := l } :=
  ⟨⟨fun _ => rfl, fewer, rfl, rfl, fun _ => .refl _, fun _ => rfl⟩, fun _ _ _ _ h => h⟩

theorem Steady.renew (p : Port) (t : Tag) (v : Word) (o : Option Port) (s : State) : Steady s (s.renew p t v o) := by
  refine .setPark (fun q u => ?_)
  rw [List.countP_map]
  refine (List.countP_congr (fun e _ => ?_)).le
  rw [Function.comp_apply]
  split <;> exact Iff.rfl

end Sys2Proof.Machine

namespace Sys2Proof.Machine

/-! ### Requests owed an answer, and their answers (R34, R51, R152, R154) -/

section Move

variable {owed owed' : List (Port × Tag)} {hand rest : List Grip} {done : List Bank} {s t : State} {b : Bank} {a : Access}
  {l m : List (Port × Tag)}

/-- What is to be answered moves between the requests owed an answer and the blocks that keep requests and responses. -/
theorem State.Tagged.moved (ok : s.Tagged owed hand done)
    (load : ∀ p u, owed'.count (p, u) + t.inStore p u ≤ owed.count (p, u) + s.inStore p u)
    (tags : ∀ p u, t.tagState p u = s.tagState p u) (port : ∀ p, (t.hpu p).port = .up ↔ (s.hpu p).port = .up)
    (banks : t.banks = s.banks) (inits : t.config.inits = s.config.inits) (teardown : t.teardown = s.teardown) :
    t.Tagged owed' hand done := by
  have bank (d : Bank) : t.bank d = s.bank d := by rw [State.bank, banks]; rfl
  have tally (f : Access → Bool) (cut : List Bank) : t.tally f cut = s.tally f cut := State.tally_congr (fun d => by rw [bank])
  have awaits {p : Port} {d : Bank} (h : s.Awaits p d) : t.Awaits p d := by rw [State.Awaits, teardown]; exact h
  refine ⟨fun p u => ?_, fun p u => ?_, fun p => ?_, fun d x hx host => ?_, fun d x hx host gone => ?_, ok.once, ok.reported,
    fun g hg => ?_, fun g hg x hx => ?_⟩
  · have before := ok.load p u
    have move := load p u
    have up : t.isUp p = s.isUp p := Bool.eq_iff_iff.2 (by simpa [State.isUp] using port p)
    rw [up, State.inWork, tally, inits, State.allowed, tags]
    rw [State.allowed, State.inWork] at before
    omega
  · rw [tally, inits]
    exact ok.flights p u
  · rw [tally, State.Recovers, teardown]
    exact ok.recovering p
  · rw [bank] at hx
    exact (port _).2 (ok.queued d x hx host)
  · rw [bank] at hx
    exact awaits (ok.left d x hx host (fun up => gone ((port _).2 up)))
  · rw [bank]
    exact ok.held g hg
  · exact (ok.waits g hg x hx).imp (port _).2 awaits

/-- A request that is owed no answer any more. -/
theorem State.Tagged.forget (ok : s.Tagged owed hand done) (fewer : ∀ x, owed'.count x ≤ owed.count x) :
    s.Tagged owed' hand done :=
  ok.moved (fun p u => Nat.add_le_add_right (fewer (p, u)) _) (fun _ _ => rfl) (fun _ => Iff.rfl) rfl rfl rfl

theorem State.reply_view (p : Port) (kind : Byte) (u : Tag) (body : RespBody) (s : State) (q : Port) :
    ((s.reply p kind u body).hpu q).port = (s.hpu q).port ∧ ((s.reply p kind u body).hpu q).tags = (s.hpu q).tags ∧
      ((s.reply p kind u body).hpu q).heldJoin = (s.hpu q).heldJoin := by
  rw [State.reply_hpu]
  exact ⟨rfl, rfl, rfl⟩

/-- An answer takes its request out of those owed one. -/
theorem State.Tagged.reply {p : Port} {u : Tag} (kind : Byte) (body : RespBody) (ok : s.Tagged ((p, u) :: owed) hand done) :
    (s.reply p kind u body).Tagged owed hand done := by
  refine ok.moved (fun q v => ?_) (fun q v => ?_) (fun q => by rw [(s.reply_view p kind u body q).1]) rfl rfl rfl
  · have join := (s.reply_view p kind u body q).2.2
    have send : ((s.reply p kind u body).hpu q).sendList.countP (fun r => r.tag == v) ≤
        (s.hpu q).sendList.countP (fun r => r.tag == v) + [(p, u)].count (q, v) := by
      rw [State.reply_hpu]
      by_cases same : p = q
      · subst same
        split
        · rw [List.countP_append]
          refine Nat.add_le_add_left ?_ _
          by_cases tag : u = v
          · subst tag
            simp
          · simp [tag]
        · simp
      · simp [same]
    have split : ((p, u) :: owed).count (q, v) = [(p, u)].count (q, v) + owed.count (q, v) := List.count_append (l₁ := [(p, u)])
    rw [split, State.inStore, State.inStore, join]
    have held : (s.reply p kind u body).heldRequests = s.heldRequests := rfl
    have park : (s.reply p kind u body).park = s.park := rfl
    rw [held, park]
    omega
  · rw [State.tagState, (s.reply_view p kind u body q).2.1]
    rfl

theorem State.Tagged.replyUp {p : Port} {u : Tag} (kind : Byte) (body : RespBody) (ok : s.Tagged ((p, u) :: owed) hand done) :
    (s.replyUp p kind u body).Tagged owed hand done := by
  unfold State.replyUp
  split
  · exact ok.reply kind body
  · exact ok.forget (fun x => List.Sublist.count_le x (List.sublist_cons_self _ _))

theorem State.Tagged.replyHeld (kind : Byte) (body : RespBody) {held : List (Port × Tag)} (ok : s.Tagged (held ++ owed) hand done) :
    (s.replyHeld kind body held).Tagged owed hand done := by
  induction held generalizing s with
  | nil => exact ok
  | cons x rest ih =>
    obtain ⟨p, u⟩ := x
    exact ih (ok.reply kind body)

theorem State.Tagged.answer {k : Kind} {p : Port} {f : Frame} (body : RespBody) (ok : s.Tagged [(p, f.tag)] hand done) :
    (s.answer k p f body).Tagged [] hand done := ok.reply _ body

/-! ### The Park List (R41, R43, R52) -/

theorem park_unparked_count (p : Port) (u : Tag) (park : List ParkEntry) (q : Port) (v : Tag) :
    (park.filter (fun e => !(e.isOf p u))).countP (ParkEntry.isOf q v) =
      if p = q ∧ u = v then 0 else park.countP (ParkEntry.isOf q v) := by
  rw [List.countP_filter]
  split
  · rename_i same
    obtain ⟨rfl, rfl⟩ := same
    exact List.countP_eq_zero.2 (fun e _ => by simp)
  · rename_i other
    refine List.countP_congr (fun e _ => ?_)
    rw [Bool.and_eq_true, Bool.not_eq_true', ← Bool.not_eq_true, ParkEntry.isOf_iff, ParkEntry.isOf_iff]
    exact ⟨fun h => h.1, fun h => ⟨h, fun own => other ⟨own.1.symm.trans h.1, own.2.symm.trans h.2⟩⟩⟩

theorem Steady.unpark (p : Port) (u : Tag) (s : State) : Steady s (s.unpark p u) :=
  .setPark (fun q v => by
    rw [park_unparked_count]
    split <;> omega)

/-- A parked operation leaves the list and is owed its answer. -/
theorem State.Tagged.unpark {p : Port} {u : Tag} (ok : s.Tagged owed hand done)
    (parked : 0 < s.park.countP (ParkEntry.isOf p u)) : (s.unpark p u).Tagged ((p, u) :: owed) hand done := by
  refine ok.moved (fun q v => ?_) (fun _ _ => rfl) (fun _ => Iff.rfl) rfl rfl rfl
  have left : (s.unpark p u).park.countP (ParkEntry.isOf q v) = _ := park_unparked_count p u s.park q v
  have held : (s.unpark p u).heldRequests = s.heldRequests := rfl
  have hpu : (s.unpark p u).hpu q = s.hpu q := rfl
  rw [State.inStore, State.inStore, left, held, hpu, List.count_cons]
  by_cases same : p = q ∧ u = v
  · obtain ⟨rfl, rfl⟩ := same
    rw [if_pos (beq_self_eq_true _), if_pos ⟨rfl, rfl⟩]
    omega
  · rw [if_neg (by simpa [Prod.ext_iff] using same), if_neg same]
    omega

theorem countP_isOf_pos {park : List ParkEntry} {e : ParkEntry} (he : e ∈ park) :
    0 < park.countP (ParkEntry.isOf e.port e.tag) :=
  List.countP_pos_iff.2 ⟨e, he, ParkEntry.isOf_iff.2 ⟨rfl, rfl⟩⟩

theorem State.Tagged.endParked {e : ParkEntry} (o : OpOutcome) (ok : s.Tagged owed hand done) (parked : e ∈ s.park) :
    (s.endParked e o).Tagged owed hand done :=
  (ok.unpark (countP_isOf_pos parked)).replyUp _ _

theorem State.allowed_le (s : State) (p : Port) (u : Tag) : s.allowed p u ≤ 1 := by
  unfold State.allowed
  split <;> omega

/-- Each parked operation's port and tag has one entry. -/
theorem State.Tagged.oneEach (ok : s.Tagged owed hand done) : OneEach s.park := by
  have once : (s.park.map (fun e => (e.port, e.tag))).Nodup := by
    rw [List.nodup_iff_count_le_one]
    intro ⟨p, u⟩
    have bound := ok.load p u
    have count : (s.park.map (fun e => (e.port, e.tag))).count (p, u) = s.park.countP (ParkEntry.isOf p u) := by
      rw [List.count_eq_countP, List.countP_map]
      exact List.countP_congr (fun e _ => by simp [ParkEntry.isOf, Prod.ext_iff])
    have one := s.allowed_le p u
    rw [State.inStore] at bound
    omega
  exact (List.pairwise_map.1 once).imp (fun apart same => apart (Prod.ext same.1 same.2))

/-! ### The answers that an access has in hand (R34, R51) -/

/-- The requests of some answers. -/
def asked (answers : List (Port × Response)) : List (Port × Tag) := answers.map (fun x => (x.1, x.2.tag))

/-- The answers of the access in hand change, with those owed and those kept. -/
theorem State.Tagged.handMoved (ok : s.Tagged owed (⟨b, a, l⟩ :: rest) done)
    (load : ∀ p u, owed'.count (p, u) + (if s.isUp p = true then m.count (p, u) else 0) + t.inStore p u ≤
      owed.count (p, u) + (if s.isUp p = true then l.count (p, u) else 0) + s.inStore p u)
    (up : ∀ x ∈ m, x ∈ l ∨ (s.hpu x.1).port = .up) (tags : ∀ p u, t.tagState p u = s.tagState p u)
    (port : ∀ p, (t.hpu p).port = (s.hpu p).port) (banks : t.banks = s.banks) (inits : t.config.inits = s.config.inits)
    (teardown : t.teardown = s.teardown) : t.Tagged owed' (⟨b, a, m⟩ :: rest) done := by
  have bank (d : Bank) : t.bank d = s.bank d := by rw [State.bank, banks]; rfl
  have tally (f : Access → Bool) (cut : List Bank) : t.tally f cut = s.tally f cut := State.tally_congr (fun d => by rw [bank])
  have awaits {p : Port} {d : Bank} (h : s.Awaits p d) : t.Awaits p d := by rw [State.Awaits, teardown]; exact h
  refine ⟨fun p u => ?_, fun p u => ?_, fun p => ?_, fun d x hx host => ?_, fun d x hx host gone => ?_, ok.once, ok.reported,
    fun g hg => ?_, fun g hg x hx => ?_⟩
  · have before := ok.load p u
    have move := load p u
    have up : t.isUp p = s.isUp p := by rw [State.isUp, port]; rfl
    have banksSame : gripped (⟨b, a, m⟩ :: rest) = gripped (⟨b, a, l⟩ :: rest) := rfl
    rw [up, State.inWork, tally, inits, State.allowed, tags, banksSame, List.flatMap_cons, List.count_append]
    rw [State.allowed, State.inWork, List.flatMap_cons, List.count_append] at before
    simp only at before ⊢
    by_cases isUp : s.isUp p = true
    · simp only [isUp, if_true] at before move ⊢
      omega
    · simp only [isUp, if_false, Bool.false_eq_true] at before move ⊢
      omega
  · rw [tally, inits]
    exact ok.flights p u
  · rw [tally, State.Recovers, teardown]
    exact ok.recovering p
  · rw [bank] at hx
    rw [port]
    exact ok.queued d x hx host
  · rw [bank] at hx
    rw [port] at gone
    exact awaits (ok.left d x hx host gone)
  · rw [bank]
    obtain rfl | later := List.mem_cons.1 hg
    · exact ok.held ⟨b, a, l⟩ List.mem_cons_self
    · exact ok.held g (List.mem_cons_of_mem _ later)
  · rw [port]
    obtain rfl | later := List.mem_cons.1 hg
    · obtain before | there := up x hx
      · exact (ok.waits ⟨b, a, l⟩ List.mem_cons_self x before).imp_right awaits
      · exact .inl there
    · exact (ok.waits g (List.mem_cons_of_mem _ later) x hx).imp_right awaits

end Move

end Sys2Proof.Machine

namespace Sys2Proof.Machine

/-! ### Cascades and their answers (R48 to R53) -/

section Cascade

variable {owed : List (Port × Tag)} {hand rest : List Grip} {done : List Bank} {s t : State} {b : Bank} {a : Access}
  {l m : List (Port × Tag)}

theorem asked_append (x y : List (Port × Response)) : asked (x ++ y) = asked x ++ asked y := List.map_append

/-- The port of a parked operation is UP (R41). -/
theorem State.PortsOk.parked_up (ports : s.PortsOk) {e : ParkEntry} (he : e ∈ s.park) : (s.hpu e.port).port = .up := by
  by_contra gone
  exact ((ports e.port).absent gone).park e he rfl

/-- A parked operation leaves the list with its answer in hand. -/
theorem State.Tagged.unparkToHand (ok : s.Tagged owed (⟨b, a, l⟩ :: rest) done) {p : Port} {u : Tag} (up : (s.hpu p).port = .up)
    (parked : 0 < s.park.countP (ParkEntry.isOf p u)) :
    (s.unpark p u).Tagged owed (⟨b, a, l ++ [(p, u)]⟩ :: rest) done := by
  refine ok.handMoved (fun q v => ?_) (fun x hx => ?_) (fun _ _ => rfl) (fun _ => rfl) rfl rfl rfl
  · have left : (s.unpark p u).park.countP (ParkEntry.isOf q v) = _ := park_unparked_count p u s.park q v
    have held : (s.unpark p u).heldRequests = s.heldRequests := rfl
    have hpu : (s.unpark p u).hpu q = s.hpu q := rfl
    rw [State.inStore, State.inStore, left, held, hpu, List.count_append]
    by_cases same : p = q ∧ u = v
    · obtain ⟨rfl, rfl⟩ := same
      have isUp : s.isUp p = true := by simpa [State.isUp] using up
      rw [if_pos isUp, if_pos isUp, if_pos ⟨rfl, rfl⟩, List.count_singleton_self]
      omega
    · rw [if_neg same, List.count_eq_zero_of_not_mem (a := (q, v)) (l := [(p, u)]) (by
        simpa [Prod.ext_iff, eq_comm] using same), Nat.add_zero]
  · obtain before | own := List.mem_append.1 hx
    · exact .inl before
    · rw [List.mem_singleton.1 own]
      exact .inr up

/-- An answer in hand is handed, or discarded when its port is no longer UP. -/
theorem State.Tagged.handFirst (ok : s.Tagged owed (⟨b, a, x :: l⟩ :: rest) done) (kind : Byte) (body : RespBody) :
    (s.replyUp x.1 kind x.2 body).Tagged owed (⟨b, a, l⟩ :: rest) done := by
  obtain ⟨p, u⟩ := x
  have split (q : Port) (v : Tag) : ((p, u) :: l).count (q, v) = [(p, u)].count (q, v) + l.count (q, v) :=
    List.count_append (l₁ := [(p, u)])
  have splitOwed (q : Port) (v : Tag) : ((p, u) :: owed).count (q, v) = [(p, u)].count (q, v) + owed.count (q, v) :=
    List.count_append (l₁ := [(p, u)])
  have same (q : Port) : s.isUp q = true ↔ (s.hpu q).port = .up := by simp [State.isUp]
  by_cases up : (s.hpu p).port = .up
  · have owing : s.Tagged ((p, u) :: owed) (⟨b, a, l⟩ :: rest) done := by
      refine ok.handMoved (fun q v => ?_) (fun x hx => .inl (List.mem_cons_of_mem _ hx)) (fun _ _ => rfl) (fun _ => rfl) rfl
        rfl rfl
      rw [split, splitOwed]
      by_cases own : p = q
      · subst own
        rw [if_pos ((same p).2 up), if_pos ((same p).2 up)]
        omega
      · rw [List.count_eq_zero_of_not_mem (a := (q, v)) (l := [(p, u)]) (by simp [Ne.symm own]), Nat.zero_add, Nat.zero_add]
    exact owing.replyUp kind body
  · rw [State.replyUp_absent _ _ _ up]
    refine ok.handMoved (fun q v => ?_) (fun x hx => .inl (List.mem_cons_of_mem _ hx)) (fun _ _ => rfl) (fun _ => rfl) rfl rfl rfl
    rw [split]
    split <;> omega

theorem State.Tagged.handAll {answers : List (Port × Response)} (ok : s.Tagged owed (⟨b, a, asked answers ++ l⟩ :: rest) done) :
    (s.handAll answers).Tagged owed (⟨b, a, l⟩ :: rest) done := by
  induction answers generalizing s with
  | nil => exact ok
  | cons x later ih => exact ih (State.Tagged.handFirst (x := (x.1, x.2.tag)) ok x.2.kind x.2.body)

/-- An evaluation takes its entry's answer in hand when it ends the entry. -/
theorem State.Tagged.evalParked (ports : s.PortsOk) (ok : s.Tagged owed (⟨b, a, l⟩ :: rest) done) {e x : ParkEntry}
    (hx : x ∈ s.park) (port : x.port = e.port) (tag : x.tag = e.tag) :
    (s.evalParked e).state.Tagged owed (⟨b, a, l ++ asked (s.evalParked e).answers⟩ :: rest) done := by
  have parked : 0 < s.park.countP (ParkEntry.isOf e.port e.tag) := by
    rw [← port, ← tag]
    exact countP_isOf_pos hx
  have up : (s.hpu e.port).port = .up := port ▸ ports.parked_up hx
  have ended := ok.unparkToHand up parked
  obtain ⟨-, eval⟩ | ⟨v, o, r, -, ⟨-, eval⟩ | ⟨-, -, eval⟩ | ⟨-, -, eval⟩⟩ := s.evalParked_cases e
  · rw [eval]
    simpa [asked] using ok
  · rw [eval]
    simpa [asked] using ok.steady (.renew e.port e.tag v o s)
  · rw [eval]
    exact ended
  · rw [eval]
    exact ended.steady (.putCell _ _ _)

/-- Entries of which the Park List holds one for each port and tag. -/
structure Reachable (l : List ParkEntry) (s : State) : Prop where
  once : OneEach l
  parked : ∀ e ∈ l, ∃ x ∈ s.park, x.port = e.port ∧ x.tag = e.tag

theorem Reachable.next {e : ParkEntry} {later : List ParkEntry} (h : Reachable (e :: later) s) :
    Reachable later (s.evalParked e).state := by
  obtain ⟨apart, once⟩ := List.pairwise_cons.1 h.once
  refine ⟨once, fun y hy => ?_⟩
  obtain ⟨x, hx, port, tag⟩ := h.parked y (List.mem_cons_of_mem _ hy)
  exact ⟨x, (s.evalParked_worksAt e).keeps hx (fun key => apart y hy ⟨(port ▸ key.1).symm, (tag ▸ key.2).symm⟩), port, tag⟩

theorem State.Tagged.cascadePass {chain : List ParkEntry} (reach : Reachable chain s) (ports : s.PortsOk)
    (ok : s.Tagged owed (⟨b, a, l⟩ :: rest) done) :
    (cascadePass chain s).state.Tagged owed (⟨b, a, l ++ asked (cascadePass chain s).answers⟩ :: rest) done := by
  induction chain generalizing s l with
  | nil => simpa [Machine.cascadePass, asked] using ok
  | cons e later ih =>
    obtain ⟨x, hx, port, tag⟩ := reach.parked e List.mem_cons_self
    have evaluated := ih reach.next (portsOk_moves.evalParked trivial ports) (ok.evalParked ports hx port tag)
    rwa [List.append_assoc, ← asked_append] at evaluated

theorem State.Tagged.expireInCascade (c : CellIx) (n : Nat) (ok : s.Tagged owed hand done) :
    (Machine.expireInCascade c n s).Tagged owed hand done := by
  induction n generalizing s with
  | zero => exact ok
  | succ n ih =>
    have counted := ok.steady (t := { s with choices := s.choices + 1 }) (.unseen rfl rfl rfl rfl rfl rfl)
    obtain same | same | ⟨k, x, number, overdue, ended⟩ := expireInCascade_cases c (n + 1) s
    · rwa [same]
    · rwa [same]
    · cases number
      rw [ended]
      exact ih (counted.endParked .expired (State.mem_overdue overdue).1)

theorem Reachable.chain (once : OneEach s.park) (c : CellIx) : Reachable (s.chain c) s :=
  ⟨once.filter _, fun e he => ⟨e, List.mem_of_mem_filter he, rfl, rfl⟩⟩

theorem State.Tagged.cascadeStep {c : CellIx} {x : Evaluated} (ports : x.state.PortsOk)
    (ok : x.state.Tagged owed (⟨b, a, l ++ asked x.answers⟩ :: rest) done) :
    (Machine.cascadeStep c x).state.Tagged owed (⟨b, a, l ++ asked (Machine.cascadeStep c x).answers⟩ :: rest) done := by
  unfold Machine.cascadeStep
  split
  · have passed := ok.cascadePass (.chain ok.oneEach c) ports
    rw [List.append_assoc, ← asked_append] at passed
    exact passed.expireInCascade c _
  · exact ok

theorem State.Tagged.cascadeSteps {c : CellIx} (n : Nat) {x : Evaluated} (ports : x.state.PortsOk)
    (ok : x.state.Tagged owed (⟨b, a, l ++ asked x.answers⟩ :: rest) done) :
    (Machine.cascadeSteps c n x).state.Tagged owed (⟨b, a, l ++ asked (Machine.cascadeSteps c n x).answers⟩ :: rest) done := by
  induction n generalizing x with
  | zero => exact ok
  | succ n ih => exact ih (portsOk_moves.cascadeStep trivial ports) (ok.cascadeStep ports)

theorem State.Tagged.runOut {c : CellIx} {x : Evaluated} (ports : x.state.PortsOk)
    (ok : x.state.Tagged owed (⟨b, a, l ++ asked x.answers⟩ :: rest) done) :
    (x.runOut c).state.Tagged owed (⟨b, a, l ++ asked (x.runOut c).answers⟩ :: rest) done := ok.cascadeSteps _ ports

/-- An operation parks with the answer it had in hand (R43). -/
theorem State.Tagged.parkNow {p : Port} {u : Tag} (ok : s.Tagged owed (⟨b, a, (p, u) :: l⟩ :: rest) done)
    (up : (s.hpu p).port = .up) (c : CellIx) (op : OpFields) (v : Word) (o : Option Port) :
    (s.parkNow p u c op v o).Tagged owed (⟨b, a, l⟩ :: rest) done := by
  refine ok.handMoved (fun q w => ?_) (fun x hx => .inl (List.mem_cons_of_mem _ hx)) (fun _ _ => rfl) (fun _ => rfl) rfl rfl rfl
  have held : (s.parkNow p u c op v o).heldRequests = s.heldRequests := rfl
  have hpu : (s.parkNow p u c op v o).hpu q = s.hpu q := rfl
  have isUp : s.isUp p = true := by simpa [State.isUp] using up
  have entry : (s.parkNow p u c op v o).park.countP (ParkEntry.isOf q w) =
      s.park.countP (ParkEntry.isOf q w) + [(p, u)].count (q, w) := by
    rw [State.parkNow, List.countP_append, List.count_eq_countP, List.countP_singleton, List.countP_singleton]
    congr 2
  have split : ((p, u) :: l).count (q, w) = [(p, u)].count (q, w) + l.count (q, w) := List.count_append (l₁ := [(p, u)])
  rw [State.inStore, State.inStore, held, hpu, entry, split]
  by_cases own : p = q
  · subst own
    rw [if_pos isUp, if_pos isUp]
    omega
  · rw [List.count_eq_zero_of_not_mem (a := (q, w)) (l := [(p, u)]) (by simp [Ne.symm own]), Nat.zero_add, Nat.add_zero]

end Cascade

/-! ### Requests held (R114, R139, R140, R143, R145) -/

section Held

variable {owed : List (Port × Tag)} {hand : List Grip} {done : List Bank} {s : State}

/-- Held requests move between the controllers that hold them and those owed an answer. -/
theorem State.Tagged.heldMoved (ok : s.Tagged owed hand done) {owed' : List (Port × Tag)} {k : ConfigCtl} {r : RefreshCtl}
    (inits : k.inits = s.config.inits)
    (perm : (owed' ++ (k.heldCommits ++ k.heldReopens ++ r.heldWakes)).Perm (owed ++ s.heldRequests)) :
    State.Tagged owed' hand done { s with config := k, refresh := r } := by
  refine ok.moved (fun p u => ?_) (fun _ _ => rfl) (fun _ => Iff.rfl) rfl inits rfl
  have count := perm.count_eq (p, u)
  have held : State.heldRequests { s with config := k, refresh := r } = k.heldCommits ++ k.heldReopens ++ r.heldWakes := rfl
  have hpu : State.hpu { s with config := k, refresh := r } p = s.hpu p := rfl
  have park : State.park { s with config := k, refresh := r } = s.park := rfl
  rw [List.count_append, List.count_append (l₁ := owed)] at count
  rw [State.inStore, State.inStore, held, hpu, park]
  omega

theorem State.Tagged.answerCommits (body : RespBody) (ok : s.Tagged owed hand done) : (s.answerCommits body).Tagged owed hand done := by
  refine State.Tagged.replyHeld _ body (ok.heldMoved (owed' := s.config.heldCommits ++ owed)
    (k := { s.config with commits := Four.all none, heldCommits := [] }) (r := s.refresh) rfl ?_)
  rw [State.heldRequests, List.nil_append, List.append_assoc s.config.heldCommits s.config.heldReopens, ← List.append_assoc owed]
  exact List.perm_append_comm.append_right _

theorem State.Tagged.answerReopens (ok : s.Tagged owed hand done) : s.answerReopens.Tagged owed hand done := by
  refine State.Tagged.replyHeld _ .ok (ok.heldMoved (owed' := s.config.heldReopens ++ owed)
    (k := { s.config with heldReopens := [] }) (r := s.refresh) rfl ?_)
  rw [State.heldRequests, List.append_nil]
  refine List.perm_iff_count.2 (fun x => ?_)
  simp only [List.count_append]
  omega

theorem State.Tagged.answerWakes (ok : s.Tagged owed hand done) : s.answerWakes.Tagged owed hand done := by
  refine State.Tagged.replyHeld _ .ok (ok.heldMoved (owed' := s.refresh.heldWakes ++ owed) (k := s.config)
    (r := { s.refresh with heldWakes := [] }) rfl ?_)
  rw [State.heldRequests, List.append_nil]
  refine List.perm_iff_count.2 (fun x => ?_)
  simp only [List.count_append]
  omega

/-- A change of a controller's own state, its held requests and flights staying. -/
theorem Steady.setConfig {s : State} {k : ConfigCtl} (inits : k.inits = s.config.inits) (commits : k.heldCommits = s.config.heldCommits)
    (reopens : k.heldReopens = s.config.heldReopens) : Steady s { s with config := k } :=
  ⟨⟨fun _ => rfl, fun _ _ => le_rfl, inits, by rw [State.heldRequests, commits, reopens]; rfl, fun _ => .refl _, fun _ => rfl⟩,
    fun _ _ _ _ h => h⟩

theorem State.Tagged.goRun (ok : s.Tagged owed hand done) : s.goRun.Tagged owed hand done :=
  ((ok.steady (t := s.modConfig (fun k => { k with state := .run })) (.setConfig rfl rfl rfl)).answerCommits .ok).steady
    (.raiseAll _ _)

theorem State.Tagged.testRun (ok : s.Tagged owed hand done) : s.testRun.Tagged owed hand done := by
  unfold State.testRun
  split
  · exact ok.goRun
  · exact ok

theorem State.Tagged.decideCommit (ok : s.Tagged owed hand done) : s.decideCommit.Tagged owed hand done := by
  unfold State.decideCommit
  split
  · exact ok.answerCommits _
  · exact (ok.steady (t := s.modConfig (fun k => { k with state := .committing })) (.setConfig rfl rfl rfl)).testRun

/-- Every parked operation leaves the list and is answered (R59). -/
theorem State.Tagged.withdrawAll (ok : s.Tagged owed hand done) : s.withdrawAll.Tagged owed hand done := by
  have cleared : State.Tagged (s.park.map (fun e => (e.port, e.tag)) ++ owed) hand done { s with park := [] } := by
    refine ok.moved (fun p u => ?_) (fun _ _ => rfl) (fun _ => Iff.rfl) rfl rfl rfl
    have count : (s.park.map (fun e => (e.port, e.tag))).count (p, u) = s.park.countP (ParkEntry.isOf p u) := by
      rw [List.count_eq_countP, List.countP_map]
      exact List.countP_congr (fun e _ => by simp [ParkEntry.isOf, Prod.ext_iff])
    have held : State.heldRequests { s with park := [] } = s.heldRequests := rfl
    have hpu : State.hpu { s with park := [] } p = s.hpu p := rfl
    rw [List.count_append, count, State.inStore, State.inStore, held, hpu, List.countP_nil]
    omega
  have answers (l : List ParkEntry) {t : State} (h : t.Tagged (l.map (fun e => (e.port, e.tag)) ++ owed) hand done) :
      (l.foldl (fun t e => t.answerParked e (.operate (unmetReport .withdrawn e.lastValue e.lastOwner e.lastFlags))) t).Tagged
        owed hand done := by
    induction l generalizing t with
    | nil => exact h
    | cons e later ih => exact ih (State.Tagged.replyUp _ _ h)
  exact answers s.park cleared

theorem State.Tagged.testDrain (ok : s.Tagged owed hand done) : s.testDrain.Tagged owed hand done := by
  unfold State.testDrain
  split
  · have empty := ok.withdrawAll.steady (.setWatches [] _)
    have setup := empty.steady (t := State.modConfig (fun k => { k with state := .setup, reopenVotes := Four.all false }) _)
      (.setConfig rfl rfl rfl)
    have votes := setup.steady (t := State.modRefresh (fun r => { r with votes := Four.all false }) _) (.setRefresh rfl)
    exact votes.answerReopens.steady (.raiseAll _ _)
  · exact ok

theorem State.Tagged.testQuorums (ok : s.Tagged owed hand done) : s.testQuorums.Tagged owed hand done := by
  unfold State.testQuorums
  split
  · split
    · exact ok.decideCommit
    · exact ok
  · split
    · exact (ok.steady (t := s.modConfig (fun k => { k with state := .draining })) (.setConfig rfl rfl rfl)).testDrain
    · exact ok
  · exact ok
  · exact ok

theorem State.Tagged.testConfig (ok : s.Tagged owed hand done) : s.testConfig.Tagged owed hand done := by
  unfold State.testConfig
  split
  · exact ok.testQuorums
  · exact ok.testQuorums
  · exact ok.testRun
  · exact ok.testDrain

end Held

end Sys2Proof.Machine

namespace Sys2Proof.Machine

/-! ### Accesses join their bank's queue, are reported, and end (R84, R85, R90, R135, R162) -/

/-- Accesses join the end of a bank's queue. -/
def State.queueAt (b : Bank) (new : List Access) (s : State) : State := s.modBank b (fun k => { k with queue := k.queue ++ new })

theorem State.queueAt_nil (b : Bank) (s : State) : s.queueAt b [] = s := by
  have same : (fun k : BankCtl => { k with queue := k.queue ++ [] }) = id := by
    funext k
    simp
  rw [State.queueAt, same]
  simp [State.modBank]

section Tally

variable {f : Access → Bool} {s : State} {b : Bank}

theorem State.tally_queueAt (new : List Access) (cut : List Bank) : (s.queueAt b new).tally f cut = s.tally f cut + new.countP f := by
  have one : (s.queueAt b new).tally f cut + (s.bank b).tally f (cut.contains b) =
      s.tally f cut + ((s.queueAt b new).bank b).tally f (cut.contains b) :=
    sumFour_one (g := fun d => (s.bank d).tally f (cut.contains d))
      (h := fun d => ((s.queueAt b new).bank d).tally f (cut.contains d)) b
      (fun d other => by rw [State.queueAt, State.bank_modBank_other _ _ other])
  have own : ((s.queueAt b new).bank b).tally f (cut.contains b) = (s.bank b).tally f (cut.contains b) + new.countP f := by
    rw [State.queueAt, State.bank_modBank_same, BankCtl.tally, BankCtl.tally, List.countP_append]
    exact Nat.add_right_comm _ _ _
  omega

/-- The current access of one bank more is left out. -/
theorem State.tally_cut {cut : List Bank} (new : b ∉ cut) :
    s.tally f (b :: cut) + (s.bank b).current.toList.countP f = s.tally f cut := by
  have one : s.tally f (b :: cut) + (s.bank b).tally f (cut.contains b) =
      s.tally f cut + (s.bank b).tally f ((b :: cut).contains b) :=
    sumFour_one (g := fun d => (s.bank d).tally f (cut.contains d)) (h := fun d => (s.bank d).tally f ((b :: cut).contains d)) b
      (fun d other => by simp [other])
  have own : (s.bank b).tally f (cut.contains b) = (s.bank b).tally f ((b :: cut).contains b) + (s.bank b).current.toList.countP f := by
    simp [BankCtl.tally, new]
  omega

end Tally

/-! What the accesses of each kind count for. -/

section Count

variable {a : Access}

theorem Access.count_asks (host : a.isHost = true) (plain : a.isGroupWrite = false) {t : Tag} (tag : a.tag = some t) (p : Port) (u : Tag) :
    [a].countP (Access.asks p u) = [(a.port, t)].count (p, u) := by
  rw [List.count_eq_countP, List.countP_singleton, List.countP_singleton]
  simp [Access.asks, host, plain, tag, Prod.ext_iff]

theorem Access.count_writes (writes : a.isGroupWrite = true) {t : Tag} (tag : a.tag = some t) (p : Port) (u : Tag) :
    [a].countP (Access.writes p u) = [(a.port, t)].count (p, u) := by
  rw [List.count_eq_countP, List.countP_singleton, List.countP_singleton]
  simp [Access.writes, writes, tag, Prod.ext_iff]

theorem Access.count_recovers (recovers : a.isHost = false) (p : Port) :
    [a].countP (Access.recovers p) = if a.port = p then 1 else 0 := by
  rw [List.countP_singleton]
  simp [Access.recovers, recovers]

theorem Access.no_writes (plain : a.isGroupWrite = false) (p : Port) (u : Tag) : [a].countP (Access.writes p u) = 0 := by
  rw [List.countP_singleton]
  simp [Access.writes, plain]

theorem Access.no_recovers (host : a.isHost = true) (p : Port) : [a].countP (Access.recovers p) = 0 := by
  rw [List.countP_singleton]
  simp [Access.recovers, host]

theorem Access.no_asks (other : a.isHost = false ∨ a.isGroupWrite = true) (p : Port) (u : Tag) :
    [a].countP (Access.asks p u) = 0 := by
  rw [List.countP_singleton]
  obtain other | other := other <;> simp [Access.asks, other]

theorem Access.host_of_writes (writes : a.isGroupWrite = true) : a.isHost = true := by
  unfold Access.isGroupWrite at writes
  unfold Access.isHost
  split at writes
  · rename_i work
    rw [work]
  · cases writes

end Count

section Banks

variable {owed owed' : List (Port × Tag)} {hand rest : List Grip} {done done' : List Bank} {s : State} {b : Bank} {a : Access}
  {l : List (Port × Tag)}

/-- Accesses join a queue, and the INIT_CELLS in flight and the reported banks change with them. -/
theorem State.Tagged.counted {k : ConfigCtl} {new : List Access} (ok : s.Tagged owed hand done)
    (commits : k.heldCommits = s.config.heldCommits) (reopens : k.heldReopens = s.config.heldReopens)
    (host : ∀ a ∈ new, a.isHost = true → (s.hpu a.port).port = .up)
    (load : ∀ p u, s.isUp p = true → owed'.count (p, u) + (new.countP (Access.asks p u) + k.inits.countP (InitFlight.isOf p u)) ≤
      owed.count (p, u) + s.config.inits.countP (InitFlight.isOf p u))
    (gone : ∀ p u, s.isUp p ≠ true → owed'.count (p, u) ≤ owed.count (p, u))
    (flights : ∀ p u, s.tally (Access.writes p u) done' + new.countP (Access.writes p u) = k.inits.countP (InitFlight.isOf p u) ∧
      k.inits.countP (InitFlight.isOf p u) ≤ 1)
    (recovering : ∀ p, s.tally (Access.recovers p) done' + new.countP (Access.recovers p) ≤ 1 ∧
      (0 < s.tally (Access.recovers p) done' + new.countP (Access.recovers p) → s.Recovers p))
    (reported : done' ⊆ gripped hand) : (State.queueAt b new { s with config := k }).Tagged owed' hand done' := by
  have tally (f : Access → Bool) (cut : List Bank) :
      (State.queueAt b new { s with config := k }).tally f cut = s.tally f cut + new.countP f := State.tally_queueAt new cut
  have bank (d : Bank) : ((State.queueAt b new { s with config := k }).bank d).state = (s.bank d).state ∧
      ((State.queueAt b new { s with config := k }).bank d).current = (s.bank d).current ∧
      ∀ x ∈ ((State.queueAt b new { s with config := k }).bank d).queue, x ∈ (s.bank d).queue ∨ x ∈ new := by
    by_cases same : d = b
    · subst same
      rw [State.queueAt, State.bank_modBank_same]
      exact ⟨rfl, rfl, fun x hx => List.mem_append.1 hx⟩
    · rw [State.queueAt, State.bank_modBank_other _ _ same]
      exact ⟨rfl, rfl, fun x hx => .inl hx⟩
  refine ⟨fun p u => ?_, fun p u => ?_, fun p => ?_, fun d x hx own => ?_, fun d x hx own gone => ?_, ok.once, reported,
    fun g hg => ?_, ok.waits⟩
  · have before := ok.load p u
    have up : (State.queueAt b new { s with config := k }).isUp p = s.isUp p := rfl
    have store : (State.queueAt b new { s with config := k }).inStore p u = s.inStore p u := by
      change _ + (k.heldCommits ++ k.heldReopens ++ s.refresh.heldWakes).count (p, u) + _ + _ = _
      rw [commits, reopens]
      rfl
    have bound : (State.queueAt b new { s with config := k }).allowed p u = s.allowed p u := rfl
    have inits : (State.queueAt b new { s with config := k }).config.inits = k.inits := rfl
    rw [up, store, bound, State.inWork, tally, inits]
    rw [State.inWork] at before
    have some := load p u
    by_cases isUp : s.isUp p = true
    · simp only [isUp, if_true, true_implies] at before some ⊢
      omega
    · have less := gone p u isUp
      simp only [isUp, if_false, Bool.false_eq_true] at before ⊢
      omega
  · rw [tally]
    exact flights p u
  · rw [tally]
    exact recovering p
  · exact ((bank d).2.2 x hx).elim (fun old => ok.queued d x old own) (fun new => host x new own)
  · rw [(bank d).2.1] at hx
    exact ok.left d x hx own gone
  · rw [(bank g.bank).1, (bank g.bank).2.1]
    exact ok.held g hg

/-- The access in hand is the one left out when its bank is. -/
theorem State.Tagged.tally_inHand (ok : s.Tagged owed (⟨b, a, l⟩ :: rest) done) (f : Access → Bool) :
    s.tally f [b] + [a].countP f = s.tally f [] := by
  have current : (s.bank b).current = some a := (ok.held _ List.mem_cons_self).2
  rw [← State.tally_cut (s := s) (b := b) (cut := []) List.not_mem_nil, current]
  rfl

/-- An access in hand that is no group write has been reported. -/
theorem State.Tagged.report (ok : s.Tagged owed (⟨b, a, l⟩ :: rest) []) (plain : a.isGroupWrite = false) :
    s.Tagged owed (⟨b, a, l⟩ :: rest) [b] := by
  have same : State.queueAt b [] { s with config := s.config } = s := State.queueAt_nil b s
  rw [← same]
  refine ok.counted (new := []) rfl rfl (List.forall_mem_nil _) (fun p u _ => ?_) (fun p u _ => le_rfl) (fun p u => ?_) (fun p => ?_)
    (fun x hx => ?_)
  · rw [List.countP_nil, Nat.zero_add]
  · have all := ok.tally_inHand (Access.writes p u)
    rw [Access.no_writes plain, Nat.add_zero] at all
    rw [all]
    exact ok.flights p u
  · have all := ok.tally_inHand (Access.recovers p)
    obtain ⟨one, waits⟩ := ok.recovering p
    rw [List.countP_nil, Nat.add_zero]
    exact ⟨by omega, fun some => waits (by omega)⟩
  · rw [List.mem_singleton.1 hx]
    exact List.mem_cons_self

/-- The recovery access of a port is reported: none of the port is left, and its teardown waits for it. -/
theorem State.Tagged.reported_recovery (ok : s.Tagged owed (⟨b, a, l⟩ :: rest) []) (recovers : a.isHost = false) :
    s.tally (Access.recovers a.port) [b] = 0 ∧ s.Recovers a.port := by
  have all := ok.tally_inHand (Access.recovers a.port)
  rw [Access.count_recovers recovers, if_pos rfl] at all
  obtain ⟨one, waits⟩ := ok.recovering a.port
  exact ⟨by omega, waits (by omega)⟩

/-- An admitted cell request joins its bank's queue. -/
theorem State.Tagged.enqueueAsked {t : Tag} (ok : s.Tagged ((a.port, t) :: owed) hand []) (host : a.isHost = true)
    (plain : a.isGroupWrite = false) (tag : a.tag = some t) (up : (s.hpu a.port).port = .up) :
    (s.enqueue a).Tagged owed hand [] := by
  have split (p : Port) (u : Tag) : ((a.port, t) :: owed).count (p, u) = [(a.port, t)].count (p, u) + owed.count (p, u) :=
    List.count_append (l₁ := [(a.port, t)])
  refine State.Tagged.steady (s := State.queueAt (bankOf a.cell) [{ a with bypass := 0 }] { s with config := s.config })
    (ok.counted rfl rfl (fun x hx _ => by rw [List.mem_singleton.1 hx]; exact up) (fun p u _ => ?_) (fun p u _ => ?_)
      (fun p u => ?_) (fun p => ?_) (List.nil_subset _)) (.pickBank _ _)
  · rw [Access.count_asks (a := { a with bypass := 0 }) host plain tag, split]
    simp only
    omega
  · rw [split]
    omega
  · rw [Access.no_writes (a := { a with bypass := 0 }) plain, Nat.add_zero]
    exact ok.flights p u
  · rw [Access.no_recovers (a := { a with bypass := 0 }) host, Nat.add_zero]
    exact ok.recovering p

/-- The Teardown Unit's record says that a recovery access is waited for, and the access joins its bank's queue. -/
theorem State.Tagged.enqueueRecovery (ok : s.Tagged owed hand done) (recovers : a.isHost = false) (none : s.tally (Access.recovers a.port) done = 0)
    (record : s.Recovers a.port) : (s.enqueue a).Tagged owed hand done := by
  have plain : a.isGroupWrite = false := by
    rw [← Bool.not_eq_true]
    intro writes
    rw [Access.host_of_writes writes] at recovers
    cases recovers
  refine State.Tagged.steady (s := State.queueAt (bankOf a.cell) [{ a with bypass := 0 }] { s with config := s.config })
    (ok.counted rfl rfl (fun x hx host => ?_) (fun p u _ => ?_) (fun p u _ => le_rfl) (fun p u => ?_) (fun p => ?_) ok.reported)
    (.pickBank _ _)
  · rw [List.mem_singleton.1 hx] at host
    exact absurd host (by rw [Access.isHost] at recovers ⊢; simp [recovers])
  · rw [Access.no_asks (a := { a with bypass := 0 }) (.inl recovers), Nat.zero_add]
  · rw [Access.no_writes (a := { a with bypass := 0 }) plain, Nat.add_zero]
    exact ok.flights p u
  · rw [Access.count_recovers (a := { a with bypass := 0 }) recovers]
    simp only
    split
    · rename_i own
      subst own
      exact ⟨by omega, fun _ => record⟩
    · exact ok.recovering p

end Banks

end Sys2Proof.Machine

namespace Sys2Proof.Machine

/-! ### Group writes and their INIT_CELLS (R134, R135, R138) -/

section Flights

variable {owed : List (Port × Tag)} {hand rest : List Grip} {done : List Bank} {s : State} {b : Bank} {a : Access}
  {l : List (Port × Tag)} {p : Port} {t : Tag}

theorem InitFlight.isOf_iff {i : InitFlight} : i.isOf p t = true ↔ i.port = p ∧ i.tag = t := by
  rw [InitFlight.isOf, Bool.and_eq_true, beq_iff_eq, beq_iff_eq]

theorem flights_dropped_count (inits : List InitFlight) (q : Port) (u : Tag) :
    (inits.filter (fun i => !(i.isOf p t))).countP (InitFlight.isOf q u) =
      if p = q ∧ t = u then 0 else inits.countP (InitFlight.isOf q u) := by
  rw [List.countP_filter]
  split
  · rename_i same
    obtain ⟨rfl, rfl⟩ := same
    exact List.countP_eq_zero.2 (fun e _ => by simp)
  · rename_i other
    refine List.countP_congr (fun e _ => ?_)
    rw [Bool.and_eq_true, Bool.not_eq_true', ← Bool.not_eq_true, InitFlight.isOf_iff, InitFlight.isOf_iff]
    exact ⟨fun h => h.1, fun h => ⟨h, fun own => other ⟨own.1.symm.trans h.1, own.2.symm.trans h.2⟩⟩⟩

theorem flights_advanced_count (inits : List InitFlight) (next : CellIx) (q : Port) (u : Tag) :
    (inits.map (fun i => if i.isOf p t then { i with nextGroup := next } else i)).countP (InitFlight.isOf q u) =
      inits.countP (InitFlight.isOf q u) := by
  rw [List.countP_map]
  refine List.countP_congr (fun i _ => ?_)
  rw [Function.comp_apply]
  split <;> exact Iff.rfl

/-- An admitted INIT_CELLS is in flight, and its first group write joins a queue. -/
theorem State.Tagged.enqueueInit (ok : s.Tagged ((p, t) :: owed) hand []) (up : (s.hpu p).port = .up) (i : InitFields) :
    ((s.modConfig (fun k => { k with inits := k.inits ++ [newFlight p t i] })).issueGroupWrite (newFlight p t i)).Tagged owed hand [] := by
  have split (q : Port) (u : Tag) : ((p, t) :: owed).count (q, u) = [(p, t)].count (q, u) + owed.count (q, u) :=
    List.count_append (l₁ := [(p, t)])
  have flight (q : Port) (u : Tag) : (s.config.inits ++ [newFlight p t i]).countP (InitFlight.isOf q u) =
      s.config.inits.countP (InitFlight.isOf q u) + [(p, t)].count (q, u) := by
    rw [List.countP_append, List.count_eq_countP, List.countP_singleton, List.countP_singleton]
    simp [InitFlight.isOf, newFlight, Prod.ext_iff]
  refine State.Tagged.steady (ok.counted (b := bankOf (max i.base (groupBase i.base)))
    (k := { s.config with inits := s.config.inits ++ [newFlight p t i] })
    (new := [{ port := p, tag := some t, cell := max i.base (groupBase i.base), work := .groupWrite i, bypass := 0 }]) rfl rfl
    (fun x hx _ => by rw [List.mem_singleton.1 hx]; exact up) (fun q u _ => ?_) (fun q u _ => ?_) (fun q u => ?_) (fun q => ?_)
    (List.nil_subset _)) (.pickBank _ _)
  · rw [Access.no_asks (.inr rfl), flight, split]
    omega
  · rw [split]
    omega
  · rw [Access.count_writes rfl rfl]
    simp only
    rw [flight, (ok.flights q u).1]
    refine ⟨rfl, ?_⟩
    by_cases own : p = q ∧ t = u
    · obtain ⟨rfl, rfl⟩ := own
      have bound := ok.load p t
      have one := s.allowed_le p t
      rw [split, List.count_singleton_self, if_pos (by simpa [State.isUp] using up), State.inWork] at bound
      rw [List.count_singleton_self]
      omega
    · rw [List.count_eq_zero_of_not_mem (a := (q, u)) (l := [(p, t)]) (by simpa [Prod.ext_iff, eq_comm] using own)]
      exact (ok.flights q u).2
  · rw [Access.no_recovers rfl, Nat.add_zero]
    exact ok.recovering q

/-- The report of a group write in hand to its INIT_CELLS. -/
theorem State.Tagged.reportGroupWrite (ok : s.Tagged owed (⟨b, a, l⟩ :: rest) []) (writes : a.isGroupWrite = true)
    (tag : a.tag = some t) (g : CellIx) : (s.reportGroupWrite a.port t g).Tagged owed (⟨b, a, l⟩ :: rest) [b] := by
  have here : [b] ⊆ gripped (⟨b, a, l⟩ :: rest) := fun x hx => by
    rw [List.mem_singleton.1 hx]
    exact List.mem_cons_self
  have flights (q : Port) (u : Tag) : s.tally (Access.writes q u) [b] + [(a.port, t)].count (q, u) =
      s.config.inits.countP (InitFlight.isOf q u) ∧ s.config.inits.countP (InitFlight.isOf q u) ≤ 1 := by
    rw [← Access.count_writes writes tag, ok.tally_inHand]
    exact ok.flights q u
  have recovering (q : Port) : s.tally (Access.recovers q) [b] + 0 ≤ 1 ∧ (0 < s.tally (Access.recovers q) [b] + 0 → s.Recovers q) := by
    have all := ok.tally_inHand (Access.recovers q)
    rw [Access.no_recovers (Access.host_of_writes writes)] at all
    rw [all]
    exact ok.recovering q
  have own := flights a.port t
  rw [List.count_singleton_self] at own
  have dropped (q : Port) (u : Tag) :
      s.tally (Access.writes q u) [b] + 0 = (s.config.inits.filter (fun i => !(i.isOf a.port t))).countP (InitFlight.isOf q u) ∧
        (s.config.inits.filter (fun i => !(i.isOf a.port t))).countP (InitFlight.isOf q u) ≤ 1 := by
    rw [flights_dropped_count]
    split
    · rename_i same
      obtain ⟨rfl, rfl⟩ := same
      omega
    · rename_i other
      have rest := flights q u
      rw [List.count_eq_zero_of_not_mem (a := (q, u)) (l := [(a.port, t)]) (by simpa [Prod.ext_iff, eq_comm] using other)] at rest
      exact rest
  have drop {owed' : List (Port × Tag)} (load : ∀ q u, s.isUp q = true → owed'.count (q, u) + (0 +
        (s.config.inits.filter (fun i => !(i.isOf a.port t))).countP (InitFlight.isOf q u)) ≤
      owed.count (q, u) + s.config.inits.countP (InitFlight.isOf q u))
      (gone : ∀ q u, s.isUp q ≠ true → owed'.count (q, u) ≤ owed.count (q, u)) :
      (s.dropFlight a.port t).Tagged owed' (⟨b, a, l⟩ :: rest) [b] := by
    have same : State.queueAt b [] (s.dropFlight a.port t) = s.dropFlight a.port t := State.queueAt_nil b _
    rw [← same]
    exact ok.counted (new := []) rfl rfl (List.forall_mem_nil _) load gone dropped recovering here
  unfold State.reportGroupWrite
  split
  · rename_i none
    have zero : s.config.inits.countP (InitFlight.isOf a.port t) = 0 :=
      List.countP_eq_zero.2 (fun i hi => List.find?_eq_none.1 none i hi)
    omega
  · rename_i i found
    obtain ⟨port, tagged⟩ := InitFlight.isOf_iff.1 (List.find?_some found)
    split
    · exact drop (fun q u _ => by
        rw [flights_dropped_count]
        split <;> omega) (fun _ _ _ => le_rfl)
    · rename_i up
      replace up : s.isUp a.port = true := by simpa using up
      split
      · refine State.Tagged.replyUp _ _ (drop (fun q u _ => ?_) (fun q u gone => ?_))
        · rw [flights_dropped_count, List.count_cons]
          by_cases same : a.port = q ∧ t = u
          · obtain ⟨rfl, rfl⟩ := same
            simp only [beq_self_eq_true, if_true, and_self]
            omega
          · rw [if_neg same, if_neg (by simpa [Prod.ext_iff] using same)]
            omega
        · rw [List.count_cons_of_ne]
          rintro ⟨⟩
          exact gone up
      · have issued := ok.counted (b := bankOf (max i.init.base (g + 16)))
          (k := { s.config with
            inits := s.config.inits.map (fun i => if i.isOf a.port t then { i with nextGroup := g + 16 } else i) })
          (new := [{ port := i.port, tag := some i.tag, cell := max i.init.base (g + 16), work := .groupWrite i.init, bypass := 0 }])
          (owed' := owed) (done' := [b]) rfl rfl
          (fun x hx _ => by
            rw [List.mem_singleton.1 hx]
            simpa [port, State.isUp] using up)
          (fun q u _ => by rw [Access.no_asks (.inr rfl), flights_advanced_count, Nat.zero_add]) (fun _ _ _ => le_rfl)
          (fun q u => by
            rw [Access.count_writes rfl rfl]
            simp only
            rw [flights_advanced_count, port, tagged]
            exact flights q u)
          (fun q => by
            rw [Access.no_recovers rfl]
            exact recovering q) here
        exact issued.steady (.pickBank _ _)

end Flights

/-! ### The end of an access at its bank (R91, R96, R162) -/

section End

variable {owed : List (Port × Tag)} {rest : List Grip} {s : State} {b : Bank} {a : Access} {l : List (Port × Tag)}

theorem State.noteEnded_get (b : Bank) (s : State) (p : Port) :
    (s.noteEnded b).teardown.get p = (s.teardown.get p).map (fun r => { r with awaited := r.awaited.set b false }) := Four.get_map _ _ _

theorem State.pickBank_noteEnded (b : Bank) (s : State) : (s.pickBank b).noteEnded b = (s.noteEnded b).pickBank b := by
  change _ = if s.refresh.hold then s.noteEnded b else (s.noteEnded b).modBank b BankCtl.pick
  unfold State.pickBank
  split <;> rfl

theorem BankCtl.afterAccess_accessing {k : BankCtl} {row : Nat} (accessing : k.state = .accessing row) (hold : Bool) (page : PagePolicy) :
    (k.afterAccess hold page).current = none := by
  rw [BankCtl.afterAccess, accessing]
  simp only
  split <;> rfl

/-- The bank of the access in hand goes on, and no teardown awaits it. -/
theorem State.Tagged.endAtBank (ok : s.Tagged owed (⟨b, a, l⟩ :: rest) [b]) : ((s.endAtBank b).noteEnded b).Tagged owed rest [] := by
  obtain ⟨apart, once⟩ := List.nodup_cons.1 ok.once
  obtain ⟨⟨row, accessing⟩, current⟩ := ok.held _ List.mem_cons_self
  simp only at accessing current
  have other {g : Grip} (hg : g ∈ rest) : g.bank ≠ b := fun same => apart (mem_gripped.2 ⟨g, hg, same⟩)
  rw [State.endAtBank, State.pickBank_noteEnded]
  refine State.Tagged.steady ?_ (.pickBank b _)
  generalize hf : BankCtl.afterAccess s.refresh.hold s.table.settings.page = f
  have queue : (f (s.bank b)).queue = (s.bank b).queue := by
    rw [← hf]
    exact BankCtl.afterAccess_queue _ _ _
  have free : (f (s.bank b)).current = none := by
    rw [← hf]
    exact BankCtl.afterAccess_accessing accessing _ _
  generalize ht : (s.modBank b f).noteEnded b = t
  have own : t.bank b = f (s.bank b) := by
    rw [← ht]
    exact State.bank_modBank_same s b f
  have away (d : Bank) (h : d ≠ b) : t.bank d = s.bank d := by
    rw [← ht]
    exact State.bank_modBank_other s f h
  have tally (g : Access → Bool) (cut : List Bank) : t.tally g cut = s.tally g (b :: cut) := by
    refine sumFour_congr (fun d => ?_)
    by_cases same : d = b
    · subst same
      rw [own, BankCtl.tally, BankCtl.tally, queue, free]
      simp
    · rw [away d same]
      simp [same]
  have record (p : Port) : t.teardown.get p = (s.teardown.get p).map (fun r => { r with awaited := r.awaited.set b false }) := by
    rw [← ht]
    exact State.noteEnded_get b _ p
  have awaits {p : Port} {d : Bank} (h : d ≠ b) : s.Awaits p d → t.Awaits p d := by
    rintro ⟨r, found, phase, awaited⟩
    exact ⟨{ r with awaited := r.awaited.set b false }, by rw [record, found]; rfl, phase, by simpa [h] using awaited⟩
  have recovers {p : Port} : s.Recovers p → t.Recovers p := by
    rintro ⟨r, found, phase⟩
    exact ⟨{ r with awaited := r.awaited.set b false }, by rw [record, found]; rfl, phase⟩
  have hpu (p : Port) : t.hpu p = s.hpu p := by
    rw [← ht]
    rfl
  have config : t.config = s.config := by
    rw [← ht]
    rfl
  have store (p : Port) (u : Tag) : t.inStore p u = s.inStore p u := by
    rw [← ht]
    rfl
  have allowed (p : Port) (u : Tag) : t.allowed p u = s.allowed p u := by
    rw [← ht]
    rfl
  refine ⟨fun p u => ?_, fun p u => ?_, fun p => ?_, fun d x hx host => ?_, fun d x hx host gone => ?_, once, List.nil_subset _,
    fun g hg => ?_, fun g hg x hx => ?_⟩
  · have before := ok.load p u
    have up : t.isUp p = s.isUp p := by rw [State.isUp, hpu]; rfl
    rw [State.inWork, List.flatMap_cons, List.count_append] at before
    rw [up, store, allowed, State.inWork, tally, config]
    have hands : gripped (⟨b, a, l⟩ :: rest) = b :: gripped rest := rfl
    rw [hands] at before
    by_cases isUp : s.isUp p = true
    · simp only [isUp, if_true] at before ⊢
      omega
    · simp only [isUp, if_false, Bool.false_eq_true] at before ⊢
      omega
  · rw [tally, config]
    exact ok.flights p u
  · rw [tally]
    exact (ok.recovering p).imp_right (fun waits some => recovers (waits some))
  · have sub : x ∈ (s.bank d).queue := by
      by_cases same : d = b
      · subst same
        rwa [own, queue] at hx
      · rwa [away d same] at hx
    rw [hpu]
    exact ok.queued d x sub host
  · by_cases same : d = b
    · subst same
      rw [own, free] at hx
      cases hx
    · rw [away d same] at hx
      rw [hpu] at gone
      exact awaits same (ok.left d x hx host gone)
  · rw [away _ (other hg)]
    exact ok.held g (List.mem_cons_of_mem _ hg)
  · rw [hpu]
    exact (ok.waits g (List.mem_cons_of_mem _ hg) x hx).imp_right (awaits (other hg))

end End

end Sys2Proof.Machine

namespace Sys2Proof.Machine

/-! ### Ports and teardowns (R147, R156, R159, R162 to R167) -/

section Teardown

variable {owed owed' : List (Port × Tag)} {hand rest : List Grip} {done : List Bank} {s : State} {b : Bank} {a : Access}
  {l : List (Port × Tag)} {p : Port}

/-- A port's HPU changes, neither to UP nor from it. -/
theorem State.Tagged.setHpu {k : Hpu} (ok : s.Tagged owed hand done) (port : k.port = .up ↔ (s.hpu p).port = .up)
    (others : ∀ q u, q ≠ p → owed'.count (q, u) ≤ owed.count (q, u))
    (load : ∀ u, owed'.count (p, u) + (if s.isUp p = true then s.inWork hand p u else 0) +
      (s.park.countP (ParkEntry.isOf p u) + s.heldRequests.count (p, u) + k.heldJoin.toList.count u +
        k.sendList.countP (fun r => r.tag == u)) ≤ if k.tags.get u = .outstanding then 1 else 0) :
    State.Tagged owed' hand done { s with hpus := s.hpus.set p k } := by
  have own : State.hpu { s with hpus := s.hpus.set p k } p = k := Four.get_set_same _ _ _
  have other {q : Port} (h : q ≠ p) : State.hpu { s with hpus := s.hpus.set p k } q = s.hpu q := Four.get_set_other _ _ h
  have ports (q : Port) : (State.hpu { s with hpus := s.hpus.set p k } q).port = .up ↔ (s.hpu q).port = .up := by
    by_cases same : q = p
    · subst same
      rw [own]
      exact port
    · rw [other same]
  refine ⟨fun q u => ?_, ok.flights, ok.recovering, fun d x hx host => (ports _).2 (ok.queued d x hx host),
    fun d x hx host gone => ok.left d x hx host (fun up => gone ((ports _).2 up)), ok.once, ok.reported, ok.held,
    fun g hg x hx => (ok.waits g hg x hx).imp_left (ports _).2⟩
  have up : State.isUp { s with hpus := s.hpus.set p k } q = s.isUp q := by
    exact Bool.eq_iff_iff.2 (by simpa [State.isUp] using ports q)
  have work : State.inWork { s with hpus := s.hpus.set p k } hand q u = s.inWork hand q u := rfl
  rw [up, work]
  by_cases same : q = p
  · subst same
    rw [State.allowed, State.tagState, own, State.inStore, own]
    exact load u
  · have before := ok.load q u
    have fewer := others q u same
    have store : State.inStore { s with hpus := s.hpus.set p k } q u = s.inStore q u := by
      rw [State.inStore, other same]
      rfl
    have bound : State.allowed { s with hpus := s.hpus.set p k } q u = s.allowed q u := by
      rw [State.allowed, State.tagState, other same]
      rfl
    rw [store, bound]
    omega

/-- A port that is not UP and whose teardown awaits no bank has no work left. -/
theorem State.Tagged.no_work (ok : s.Tagged owed hand done) (gone : (s.hpu p).port ≠ .up) (free : ∀ d, ¬s.Awaits p d) (u : Tag) :
    s.inWork hand p u = 0 := by
  have none (d : Bank) : ∀ x ∈ (s.bank d).queue ++ (s.bank d).current.toList, x.isHost = true → x.port ≠ p := by
    intro x hx host port
    subst port
    obtain queued | current := List.mem_append.1 hx
    · exact gone (ok.queued d x queued host)
    · exact free d (ok.left d x current host gone)
  have asks (cut : List Bank) : s.tally (Access.asks p u) cut = 0 :=
    State.tally_zero (fun d x hx => by
      rw [← Bool.not_eq_true]
      intro own
      simp only [Access.asks, Bool.and_eq_true, beq_iff_eq] at own
      obtain ⟨⟨⟨host, -⟩, port⟩, -⟩ := own
      exact none d x hx host port)
  have writes (cut : List Bank) : s.tally (Access.writes p u) cut = 0 :=
    State.tally_zero (fun d x hx => by
      rw [← Bool.not_eq_true]
      intro own
      simp only [Access.writes, Bool.and_eq_true, beq_iff_eq] at own
      obtain ⟨⟨writes, port⟩, -⟩ := own
      exact none d x hx (Access.host_of_writes writes) port)
  have answers : (hand.flatMap (fun g => g.answers)).count (p, u) = 0 :=
    List.count_eq_zero_of_not_mem (fun mem => by
      obtain ⟨g, hg, hx⟩ := List.mem_flatMap.1 mem
      exact (ok.waits g hg _ hx).elim gone (free g.bank))
  rw [State.inWork, answers, asks, ← (ok.flights p u).1, writes]

/-- A port without work goes UP. -/
theorem State.Tagged.goUp (ok : s.Tagged owed hand done) (gone : (s.hpu p).port ≠ .up) (free : ∀ d, ¬s.Awaits p d) :
    (s.goUp p).Tagged owed hand done := by
  refine State.Tagged.steady (s := s.modHpu p (fun h => { h with port := .up })) ?_ (.modEvents p _ _)
  generalize ht : s.modHpu p (fun h => { h with port := .up }) = t
  have own : t.hpu p = { s.hpu p with port := .up } := by
    rw [← ht]
    exact State.hpu_modHpu_same s p _
  have other {q : Port} (h : q ≠ p) : t.hpu q = s.hpu q := by
    rw [← ht]
    exact State.hpu_modHpu_other s _ h
  have up {q : Port} (h : (s.hpu q).port = .up) : (t.hpu q).port = .up := by
    by_cases same : q = p
    · subst same
      rw [own]
    · rwa [other same]
  have gained {q : Port} (h : (t.hpu q).port ≠ .up) : (s.hpu q).port ≠ .up := fun was => h (up was)
  have work (q : Port) (u : Tag) : t.inWork hand q u = s.inWork hand q u := by
    rw [← ht]
    rfl
  have parts : t.banks = s.banks ∧ t.config = s.config ∧ t.teardown = s.teardown ∧ t.park = s.park ∧ t.heldRequests = s.heldRequests := by
    rw [← ht]
    exact ⟨rfl, rfl, rfl, rfl, rfl⟩
  obtain ⟨banks, config, teardown, park, held⟩ := parts
  have bank (d : Bank) : t.bank d = s.bank d := by rw [State.bank, banks]; rfl
  have tally (f : Access → Bool) (cut : List Bank) : t.tally f cut = s.tally f cut := State.tally_congr (fun d => by rw [bank])
  have awaits {q : Port} {d : Bank} (h : s.Awaits q d) : t.Awaits q d := by rw [State.Awaits, teardown]; exact h
  refine ⟨fun q u => ?_, fun q u => ?_, fun q => ?_, fun d x hx host => ?_, fun d x hx host absent => ?_, ok.once, ok.reported,
    fun g hg => ?_, fun g hg x hx => (ok.waits g hg x hx).imp up awaits⟩
  · have before := ok.load q u
    have store : t.inStore q u = s.inStore q u := by
      rw [State.inStore, State.inStore, park, held]
      by_cases same : q = p
      · subst same
        rw [own]
      · rw [other same]
    have bound : t.allowed q u = s.allowed q u := by
      rw [State.allowed, State.allowed, State.tagState, State.tagState]
      by_cases same : q = p
      · subst same
        rw [own]
      · rw [other same]
    rw [store, bound, work]
    by_cases same : q = p
    · subst same
      rw [ok.no_work gone free] at before ⊢
      rwa [ite_self] at before ⊢
    · have still : t.isUp q = s.isUp q := by rw [State.isUp, other same]; rfl
      rw [still]
      exact before
  · rw [tally, config]
    exact ok.flights q u
  · rw [tally, State.Recovers, teardown]
    exact ok.recovering q
  · rw [bank] at hx
    exact up (ok.queued d x hx host)
  · rw [bank] at hx
    exact awaits (ok.left d x hx host (gained absent))
  · rw [bank]
    exact ok.held g hg

/-- Neither a bank nor a recovery access of a port is waited for. -/
structure State.Idle (p : Port) (done : List Bank) (s : State) : Prop where
  recovery : s.tally (Access.recovers p) done = 0
  free : ∀ d, ¬s.Awaits p d

/-- The record of a port for which nothing is waited changes. -/
theorem State.Tagged.setRecord (ok : s.Tagged owed hand done) (idle : s.Idle p done) (x : Option TeardownRec) :
    State.Tagged owed hand done { s with teardown := s.teardown.set p x } := by
  have awaits {q : Port} {d : Bank} (h : s.Awaits q d) : State.Awaits { s with teardown := s.teardown.set p x } q d := by
    have other : q ≠ p := fun same => idle.free d (same ▸ h)
    obtain ⟨r, record, rest⟩ := h
    exact ⟨r, (Four.get_set_other _ _ other).trans record, rest⟩
  refine ⟨ok.load, ok.flights, fun q => ?_, ok.queued, fun d x hx host gone => awaits (ok.left d x hx host gone), ok.once, ok.reported,
    ok.held, fun g hg x hx => (ok.waits g hg x hx).imp_right awaits⟩
  obtain ⟨one, waits⟩ := ok.recovering q
  refine ⟨one, fun some => ?_⟩
  have other : q ≠ p := by
    rintro rfl
    have none := idle.recovery
    exact absurd some (by change ¬0 < s.tally _ _; omega)
  obtain ⟨r, record, phase⟩ := waits some
  exact ⟨r, (Four.get_set_other _ _ other).trans record, phase⟩

/-- A record that awaits nothing takes the place of one for which nothing is waited. -/
theorem State.Idle.setRecord (idle : s.Idle p done) {x : Option TeardownRec} (free : ∀ r, x = some r → r.phase ≠ .awaiting) :
    State.Idle p done { s with teardown := s.teardown.set p x } := by
  refine ⟨idle.recovery, fun d awaits => ?_⟩
  obtain ⟨r, record, phase, -⟩ := awaits
  exact free r ((Four.get_set_same _ _ _).symm.trans record) phase

theorem State.PortsOk.no_record (ports : s.PortsOk) (other : (s.hpu p).port ≠ .clearing) (d : Bank) : ¬s.Awaits p d := by
  rintro ⟨r, record, -⟩
  rw [(ports p).record_none other] at record
  cases record

end Teardown

end Sys2Proof.Machine

namespace Sys2Proof.Machine

section Walk

variable {owed : List (Port × Tag)} {hand rest : List Grip} {done : List Bank} {s : State} {b : Bank} {a : Access}
  {l : List (Port × Tag)} {p : Port}

/-- A port that is not UP leaves CLEARING: UP by its held JOIN, or LINKED or DOWN. -/
theorem State.Tagged.leaveClearing (ok : s.Tagged owed hand done) (gone : (s.hpu p).port ≠ .up) (free : ∀ d, ¬s.Awaits p d) :
    (s.leaveClearing p).Tagged owed hand done := by
  have bound := ok.load p
  unfold State.leaveClearing
  split
  · rename_i t held
    have freed : State.Tagged ((p, t) :: owed) hand done (s.modHpu p (fun h => { h with heldJoin := none })) := by
      refine ok.setHpu Iff.rfl (fun q u other => ?_) (fun u => ?_)
      · rw [List.count_cons_of_ne]
        rintro ⟨⟩
        exact other rfl
      · have before := bound u
        have one : ((p, t) :: owed).count (p, u) = [t].count u + owed.count (p, u) := by
          rw [List.count_cons, List.count_singleton, Nat.add_comm]
          simp [Prod.ext_iff]
        rw [State.inStore, held, Option.toList_some, State.allowed, State.tagState] at before
        rw [one]
        change _ + (_ + _ + 0 + (s.hpu p).sendList.countP _) ≤ if (s.hpu p).tags.get u = _ then 1 else 0
        omega
    have gone' : ((s.modHpu p (fun h => { h with heldJoin := none })).hpu p).port ≠ .up := by
      rw [State.hpu_modHpu_same]
      exact gone
    exact ((freed.goUp gone' free).steady (.raiseOthers p _ _)).reply _ _
  · refine ok.setHpu ?_ (fun _ _ _ => le_rfl) (fun u => ?_)
    · refine iff_of_false ?_ gone
      change (if (s.hpu p).link = .alive then PortState.linked else .down) ≠ .up
      split <;> decide
    · exact bound u

theorem State.Idle.modTeardown (idle : s.Idle p done) {f : TeardownRec → TeardownRec}
    (waits : ∀ r, (f r).phase = .awaiting → r.phase = .awaiting ∧ (f r).awaited = r.awaited) : (s.modTeardown p f).Idle p done := by
  refine ⟨idle.recovery, fun d awaits => ?_⟩
  obtain ⟨r', record, phase, awaited⟩ := awaits
  rw [State.modTeardown, Four.get_set_same] at record
  obtain ⟨r, was, rfl⟩ := Option.map_eq_some_iff.1 record
  obtain ⟨awaiting, same⟩ := waits r phase
  exact idle.free d ⟨r, was, awaiting, same ▸ awaited⟩

/-- Teardown completes for a port for which nothing is waited. -/
theorem State.Tagged.completeTeardown (ports : s.PortsOk) (ok : s.Tagged owed hand done) (idle : s.Idle p done) :
    (s.completeTeardown p).Tagged owed hand done := by
  unfold State.completeTeardown
  split
  · exact ok
  · rename_i r record
    have clearing : (s.hpu p).port = .clearing := (ports p).record.1 (by rw [record]; rfl)
    have told := ok.steady (.raiseOthers p (.portCleared p r.restored r.released r.held) s)
    obtain ⟨events, same⟩ := State.raises_frame (allFour.filter (fun q => q != p)) (.portCleared p r.restored r.released r.held) s
    change s.raiseOthers p (.portCleared p r.restored r.released r.held) = _ at same
    rw [same] at told ⊢
    have idle' : State.Idle p done { s with events := events } := ⟨idle.recovery, idle.free⟩
    refine ((told.setRecord idle' none).leaveClearing ?_ ?_).testQuorums.steady (.testRetention _)
    · change (s.hpu p).port ≠ .up
      rw [clearing]
      decide
    · exact (idle'.setRecord (fun _ h => by cases h)).free

theorem State.modTeardown_isSome (f : TeardownRec → TeardownRec) (record : (s.teardown.get p).isSome = true) :
    ((s.modTeardown p f).teardown.get p).isSome = true := by
  rw [State.modTeardown, Four.get_set_same, Option.isSome_map]
  exact record

/-- A recovery access is issued for a port for which nothing is waited. -/
theorem State.Tagged.issueRecovery (ok : s.Tagged owed hand done) (idle : s.Idle p done) (record : (s.teardown.get p).isSome = true)
    (c : CellIx) (policy : LossPolicy) (default : Option Word) : (s.issueRecovery p c policy default).Tagged owed hand done := by
  obtain ⟨r, found⟩ := Option.isSome_iff_exists.1 record
  refine (ok.setRecord idle _).enqueueRecovery rfl idle.recovery ?_
  exact ⟨{ r with phase := .recovering, current := some c }, by rw [Four.get_set_same, found]; rfl, rfl⟩

/-- The walk goes on: HOLD cells are passed, and a recovery access is issued or teardown completes. -/
theorem State.Tagged.walkCells (cells : List CellIx) (ports : s.PortsOk) (ok : s.Tagged owed hand done) (idle : s.Idle p done)
    (record : (s.teardown.get p).isSome = true) : (Machine.walkCells p cells s).Tagged owed hand done := by
  induction cells generalizing s with
  | nil => exact ok.completeTeardown ports idle
  | cons c rest ih =>
    unfold Machine.walkCells
    split
    · exact ih (portsOk_moves.modTeardown _ _ ports) (ok.setRecord idle _) (idle.modTeardown (fun _ phase => ⟨phase, rfl⟩))
        (State.modTeardown_isSome _ record)
    · exact ok.issueRecovery idle record c _ _
    · exact ok.issueRecovery idle record c _ _

theorem State.Tagged.walk (ports : s.PortsOk) (ok : s.Tagged owed hand done) (idle : s.Idle p done)
    (record : (s.teardown.get p).isSome = true) : (s.walk p).Tagged owed hand done :=
  State.Tagged.walkCells _ (portsOk_moves.modTeardown _ _ ports) (ok.setRecord idle _)
    (idle.modTeardown (fun _ phase => by cases phase)) (State.modTeardown_isSome _ record)

/-- The walk that is due starts. -/
theorem State.Tagged.walkStart (ports : s.PortsOk) (ok : s.Tagged owed hand done) (due : s.walkDue p = true) :
    (s.walk p).Tagged owed hand done := by
  obtain ⟨r, record, awaiting, awaited⟩ := State.walkDue_iff.1 due
  refine ok.walk ports ⟨?_, ?_⟩ (by rw [record]; rfl)
  · by_contra some
    obtain ⟨r', record', recovering⟩ := (ok.recovering p).2 (Nat.pos_of_ne_zero some)
    rw [record] at record'
    cases record'
    rw [awaiting] at recovering
    cases recovering
  · rintro d ⟨r', record', -, waits⟩
    rw [record] at record'
    cases record'
    simp [awaited d] at waits

theorem State.Tagged.act (x : Act) (ports : s.PortsOk) (ok : s.Tagged owed hand done) : (x.run s).Tagged owed hand done := by
  cases x with
  | walk p =>
    change State.Tagged owed hand done (if s.walkDue p then s.walk p else s)
    split
    · rename_i due
      exact ok.walkStart ports due
    · exact ok
  | config => exact ok.testConfig
  | refresh => exact ok.steady (.testOpportunity s)

theorem State.Tagged.settle (ports : s.PortsOk) (ok : s.Tagged owed hand done) : s.settle.Tagged owed hand done := by
  have acts (x : List Act) {t : State} (ports : t.PortsOk) (ok : t.Tagged owed hand done) :
      (x.foldl (fun s a => a.run s) t).Tagged owed hand done :=
    (foldl_kept (I := fun s => s.PortsOk ∧ s.Tagged owed hand done) x
      (fun _ a _ h => ⟨portsOk_moves.act a h.1, h.2.act a h.1⟩) ⟨ports, ok⟩).2
  unfold State.settle
  split
  · exact acts _ (portsOk_moves.choices _ ports) (ok.steady (.unseen rfl rfl rfl rfl rfl rfl))
  · exact acts _ ports ok

/-- An access in hand that has been reported ends. -/
theorem State.Tagged.finishAccess (ports : s.PortsOk) (ok : s.Tagged owed (⟨b, a, l⟩ :: rest) [b]) :
    (s.finishAccess b).Tagged owed rest [] :=
  ok.endAtBank.settle (portsOk_moves.noteEnded b (portsOk_moves.endAtBank b ports))

end Walk

end Sys2Proof.Machine

namespace Sys2Proof.Machine

/-! ### Accesses in progress (R20, R37, R65, R90, R136, R165) -/

section Accesses

variable {owed : List (Port × Tag)} {hand hand' rest : List Grip} {done : List Bank} {s : State} {b : Bank} {a : Access}
  {l : List (Port × Tag)} {p : Port} {t : Tag}

/-- An access in progress is taken in hand, with its request's answer when it is a cell request. -/
theorem State.Tagged.take (ok : s.Tagged owed hand []) (at_ : s.accessing b = some a) (new : b ∉ gripped hand)
    (answers : ∀ p u, l.count (p, u) ≤ [a].countP (Access.asks p u)) : s.Tagged owed (⟨b, a, l⟩ :: hand) [] := by
  obtain ⟨accessing, current⟩ := State.accessing_iff.1 at_
  refine ⟨fun p u => ?_, ok.flights, ok.recovering, ok.queued, ok.left, List.nodup_cons.2 ⟨new, ok.once⟩, List.nil_subset _,
    fun g hg => ?_, fun g hg x hx => ?_⟩
  · have before := ok.load p u
    have cut := State.tally_cut (f := Access.asks p u) (s := s) new
    rw [current, Option.toList_some] at cut
    have less := answers p u
    have banks : gripped (⟨b, a, l⟩ :: hand) = b :: gripped hand := rfl
    rw [State.inWork] at before ⊢
    rw [banks, List.flatMap_cons, List.count_append]
    by_cases isUp : s.isUp p = true
    · simp only [isUp, if_true] at before ⊢
      omega
    · simp only [isUp, if_false, Bool.false_eq_true] at before ⊢
      omega
  · obtain rfl | later := List.mem_cons.1 hg
    · exact ⟨accessing, current⟩
    · exact ok.held g later
  · obtain rfl | later := List.mem_cons.1 hg
    · obtain ⟨p, u⟩ := x
      have some : 0 < [a].countP (Access.asks p u) := (List.count_pos_iff.2 hx).trans_le (answers p u)
      obtain ⟨y, hy, own⟩ := List.countP_pos_iff.1 some
      rw [List.mem_singleton.1 hy] at own
      simp only [Access.asks, Bool.and_eq_true, beq_iff_eq] at own
      obtain ⟨⟨⟨host, -⟩, port⟩, -⟩ := own
      subst port
      by_cases up : (s.hpu a.port).port = .up
      · exact .inl up
      · exact .inr (ok.left b a (by rw [current]; exact Option.mem_toList.2 rfl) host up)
    · exact ok.waits g later x hx

/-- The accesses in hand, in another order. -/
theorem State.Tagged.handOrder (ok : s.Tagged owed hand done) (perm : hand'.Perm hand) : s.Tagged owed hand' done := by
  have banks : (gripped hand').Perm (gripped hand) := perm.map _
  have cut (f : Access → Bool) : s.tally f (gripped hand') = s.tally f (gripped hand) := by
    refine sumFour_congr (fun d => ?_)
    rw [Bool.eq_iff_iff.2 (List.contains_iff_mem.trans (banks.mem_iff.trans List.contains_iff_mem.symm))]
  have work (p : Port) (u : Tag) : s.inWork hand' p u = s.inWork hand p u := by
    rw [State.inWork, State.inWork, cut, (perm.flatMap_right _).count_eq]
  exact ⟨fun p u => by rw [work]; exact ok.load p u, ok.flights, ok.recovering, ok.queued, ok.left, banks.nodup_iff.2 ok.once,
    fun b hb => banks.mem_iff.2 (ok.reported hb), fun g hg => ok.held g (perm.mem_iff.1 hg), fun g hg => ok.waits g (perm.mem_iff.1 hg)⟩

/-- The answers in hand are discarded. -/
theorem State.Tagged.discard (ok : s.Tagged owed (⟨b, a, l⟩ :: rest) done) : s.Tagged owed (⟨b, a, []⟩ :: rest) done :=
  ok.handMoved (fun p u => by
    rw [List.count_nil, ite_self]
    omega) (List.forall_mem_nil _) (fun _ _ => rfl) (fun _ => rfl) rfl rfl rfl

/-- The recovery access in hand has ended, and its port's walk goes on. -/
theorem State.Tagged.walkOn (ports : s.PortsOk) (ok : s.Tagged owed (⟨b, a, l⟩ :: rest) []) (recovers : a.isHost = false)
    (plain : a.isGroupWrite = false) : (s.walk a.port).Tagged owed (⟨b, a, l⟩ :: rest) [b] := by
  obtain ⟨none, r, record, recovering⟩ := ok.reported_recovery recovers
  refine (ok.report plain).walk ports ⟨none, ?_⟩ (by rw [record]; rfl)
  rintro d ⟨r', record', awaiting, -⟩
  rw [record] at record'
  cases record'
  rw [awaiting] at recovering
  cases recovering

theorem TeardownRec.count_view (policy : LossPolicy) (r : TeardownRec) : (r.count policy).view = r.view := by
  cases policy <;> rfl

/-- An access that changed its cell hands its answers and ends. -/
theorem State.Tagged.closeAccess {x : Evaluated} (plain : a.isGroupWrite = false) (ports : x.state.PortsOk)
    (ok : x.state.Tagged owed (⟨b, a, asked x.answers⟩ :: rest) []) : (State.closeAccess b a x).Tagged owed rest [] := by
  have handed : (x.state.handAll x.answers).Tagged owed (⟨b, a, []⟩ :: rest) [] :=
    State.Tagged.handAll (by rw [List.append_nil]; exact ok)
  have evaluated := handed.steady (.evalWatches a.cell _)
  have ports' := portsOk_moves.evalWatches a.cell (portsOk_moves.handAll x.answers ports)
  have ends := (evaluated.report plain).finishAccess ports'
  unfold State.closeAccess
  cases work : a.work with
  | recovery policy default =>
    have counted := evaluated.steady (.modTeardown (f := TeardownRec.count policy) (TeardownRec.count_view policy) a.port _)
    have ports'' := portsOk_moves.modTeardown a.port (TeardownRec.count policy) ports'
    exact (counted.walkOn ports'' (by rw [Access.isHost, work]) plain).finishAccess (portsOk_moves.walk a.port ports'')
  | operate op => exact ends
  | groupRead => exact ends
  | setRecovery r => exact ends
  | watch w => exact ends
  | groupWrite i => exact ends

/-- An opening operation is that of an OPERATE, whose answer it makes, or of a recovery access, which makes none. -/
theorem State.openAccess_answers {x : Evaluated} (opens : s.openAccess a = some x) : a.isGroupWrite = false ∧
    ∀ p u, (asked x.answers).count (p, u) ≤ [a].countP (Access.asks p u) := by
  have operate {op : OpFields} {t : Tag} (work : a.work = .operate op) (tag : a.tag = some t) :
      a.isGroupWrite = false ∧ ∀ p u, [(a.port, t)].count (p, u) ≤ [a].countP (Access.asks p u) := by
    have plain : a.isGroupWrite = false := by rw [Access.isGroupWrite, work]
    exact ⟨plain, fun p u => (Access.count_asks (by rw [Access.isHost, work]) plain tag p u).ge⟩
  unfold State.openAccess at opens
  split at opens
  · rename_i op t work tag
    split at opens
    · split at opens
      · cases opens
        exact operate work tag
      · cases opens
    · split at opens
      · cases opens
        exact operate work tag
      · cases opens
  · rename_i policy default work
    refine ⟨by rw [Access.isGroupWrite, work], fun p u => ?_⟩
    split at opens
    · split at opens
      · cases opens
        exact Nat.zero_le _
      · cases opens
    · cases opens
  · cases opens

/-- The opening operation of an access in progress, with its answer in hand. -/
theorem State.Tagged.opened {x : Evaluated} (ok : s.Tagged owed hand []) (at_ : s.accessing b = some a) (new : b ∉ gripped hand)
    (opens : s.openAccess a = some x) : x.state.Tagged owed (⟨b, a, asked x.answers⟩ :: hand) [] := by
  obtain ⟨r, left⟩ := State.openAccess_state opens
  rw [left]
  exact (ok.take at_ new (State.openAccess_answers opens).2).steady (.putCell _ _ _)

theorem State.Tagged.runAccess {unchanging : State → State} (ports : s.PortsOk) (ok : s.Tagged [] [] []) (at_ : s.accessing b = some a)
    (plain : a.isGroupWrite = false) (kept : (unchanging s).PortsOk ∧ (unchanging s).Tagged [] [⟨b, a, []⟩] [b]) :
    (s.runAccess b a unchanging).Tagged [] [] [] := by
  unfold State.runAccess
  split
  · rename_i x opens
    have opened := portsOk_moves.openAccess trivial opens ports
    refine State.Tagged.closeAccess plain (portsOk_moves.runOut trivial opened) ?_
    exact State.Tagged.runOut (l := []) opened (ok.opened at_ List.not_mem_nil opens)
  · exact kept.2.finishAccess kept.1

/-! ### Accesses that leave their cell, and the other kinds -/

theorem State.Tagged.performOperate (ok : s.Tagged owed (⟨b, a, [(p, t)]⟩ :: rest) done) (c : CellIx) (op : OpFields) :
    (s.performOperate p t c op).Tagged owed (⟨b, a, []⟩ :: rest) done := by
  have answered (body : RespBody) : (s.answerOperate p t body).Tagged owed (⟨b, a, []⟩ :: rest) done := State.Tagged.handFirst ok _ body
  unfold State.performOperate
  split
  · rename_i v o r _
    split
    · unfold State.guardTrue
      split
      · exact answered _
      · exact State.Tagged.handAll (answers := (s.executed p t c op v o r).answers) (ok.steady (.putCell _ _ _))
    · unfold State.guardFalse
      split
      · exact answered _
      · split
        · exact ok.discard
        · rename_i up
          split
          · exact ok.parkNow (by simpa [State.isUp] using up) c op v o
          · exact answered _
  · exact answered _

theorem State.Tagged.performSetRecovery (ok : s.Tagged owed (⟨b, a, [(p, t)]⟩ :: rest) done) (c : CellIx) (r : Option Word) :
    (s.performSetRecovery p t c r).Tagged owed (⟨b, a, []⟩ :: rest) done := by
  unfold State.performSetRecovery
  split
  · exact State.Tagged.handFirst (x := (p, t)) (ok.steady (.putCell _ _ _)) _ _
  · exact State.Tagged.handFirst ok _ _

theorem Steady.reportNow (w : Watch) (f : WatchFields) (v : Word) (o : Option Port) (s : State) : Steady s (s.reportNow w f v o) := by
  unfold State.reportNow
  split
  · simp only
    split
    · exact (Steady.raise _ _ s).trans (.setWatches _ _)
    · exact .raise _ _ s
  · exact .refl s

theorem State.Tagged.performWatch (ok : s.Tagged owed (⟨b, a, [(p, t)]⟩ :: rest) done) (c : CellIx) (f : WatchFields) :
    (s.performWatch p t c f).Tagged owed (⟨b, a, []⟩ :: rest) done := by
  unfold State.performWatch
  split
  · split
    · exact ok.discard
    · split
      · exact State.Tagged.handFirst ok _ _
      · exact (State.Tagged.handFirst (x := (p, t)) (ok.steady (.setWatches _ s)) _ _).steady (.reportNow _ _ _ _ _)
  · exact State.Tagged.handFirst ok _ _

end Accesses

end Sys2Proof.Machine

namespace Sys2Proof.Machine

/-! ### A departure (R155, R160) -/

section Depart

variable {hand : List Grip} {s : State} {p : Port} {reason : LossReason} {h : Hpu}

theorem countP_filter_of_imp {α : Type} {f keep : α → Bool} (kept : ∀ x, f x = true → keep x = true) (l : List α) :
    (l.filter keep).countP f = l.countP f := by
  rw [List.countP_filter]
  exact List.countP_congr (fun x _ => by simpa using kept x)

theorem State.noticed_bank (d : Bank) : (s.noticed p reason h).bank d =
    { s.bank d with queue := (s.bank d).queue.filter (fun a => !(a.isHost && a.port == p)) } := Four.get_map _ _ _

/-- What a teardown start takes out of no queue is counted as before. -/
theorem State.noticed_tally {f : Access → Bool} (kept : ∀ a, f a = true → a.isHost = false ∨ a.port ≠ p) (cut : List Bank) :
    (s.noticed p reason h).tally f cut = s.tally f cut := by
  refine State.tally_congr (fun d => ?_)
  rw [State.noticed_bank, BankCtl.tally, BankCtl.tally,
    countP_filter_of_imp (fun a own => by obtain other | other := kept a own <;> simp [other])]

/-- Whether a group write of a port's INIT_CELLS is in progress. -/
def State.writesNow (s : State) (p : Port) (u : Tag) : Bool := allFour.any (fun b => (s.bank b).current.any (Access.writes p u))

theorem State.noticed_writes (one : s.tally (Access.writes p u) [] ≤ 1) :
    (s.noticed p reason h).tally (Access.writes p u) [] = if s.writesNow p u = true then s.tally (Access.writes p u) [] else 0 := by
  have term (d : Bank) : ((s.noticed p reason h).bank d).tally (Access.writes p u) (([] : List Bank).contains d) =
      (s.bank d).current.toList.countP (Access.writes p u) := by
    rw [State.noticed_bank, BankCtl.tally, List.countP_filter]
    have none : (s.bank d).queue.countP (fun a => Access.writes p u a && !(a.isHost && a.port == p)) = 0 := by
      refine List.countP_eq_zero.2 (fun a _ own => ?_)
      simp only [Access.writes, Bool.and_eq_true, beq_iff_eq] at own
      obtain ⟨⟨⟨writes, port⟩, -⟩, left⟩ := own
      simp [Access.host_of_writes writes, port] at left
    rw [none]
    exact Nat.zero_add _
  have less : (s.noticed p reason h).tally (Access.writes p u) [] ≤ s.tally (Access.writes p u) [] :=
    sumFour_le (fun d => by
      rw [term]
      exact Nat.le_add_left _ _)
  split
  · rename_i now
    obtain ⟨b, -, now⟩ := List.any_eq_true.1 now
    obtain ⟨a, current, writes⟩ : ∃ a, (s.bank b).current = some a ∧ a.writes p u = true := by
      cases current : (s.bank b).current with
      | none =>
        rw [current] at now
        cases now
      | some a =>
        rw [current] at now
        exact ⟨a, rfl, now⟩
    have here := sumFour_term_le (fun d => ((s.noticed p reason h).bank d).tally (Access.writes p u) (([] : List Bank).contains d)) b
    have counted : 0 < (s.bank b).current.toList.countP (Access.writes p u) :=
      List.countP_pos_iff.2 ⟨a, Option.mem_toList.2 current, writes⟩
    simp only [term b] at here
    change _ ≤ (s.noticed p reason h).tally (Access.writes p u) [] at here
    omega
  · rename_i none
    have zero (d : Bank) : (s.bank d).current.toList.countP (Access.writes p u) = 0 := by
      refine List.countP_eq_zero.2 (fun a ha own => none ?_)
      refine List.any_eq_true.2 ⟨d, mem_allFour d, ?_⟩
      rw [Option.mem_toList.1 ha]
      exact own
    exact (sumFour_congr (fun d => (term d).trans (zero d))).trans rfl

theorem State.noticed_inits (u : Tag) : (s.noticed p reason h).config.inits.countP (InitFlight.isOf p u) =
    if s.writesNow p u = true then s.config.inits.countP (InitFlight.isOf p u) else 0 := by
  change (s.config.inits.filter (fun i => i.port != p || s.writesNow p i.tag)).countP _ = _
  rw [List.countP_filter]
  split
  · rename_i now
    refine List.countP_congr (fun i _ => ?_)
    rw [Bool.and_eq_true, InitFlight.isOf_iff]
    exact ⟨fun own => own.1, fun own => ⟨own, by rw [own.2, now, Bool.or_true]⟩⟩
  · rename_i none
    refine List.countP_eq_zero.2 (fun i _ own => ?_)
    rw [Bool.and_eq_true, InitFlight.isOf_iff] at own
    obtain ⟨⟨port, tag⟩, kept⟩ := own
    simp [port, tag, none] at kept

/-- A port departs: nothing of it is left to be answered but the responses of its send list. -/
theorem State.Tagged.noticed (ok : s.Tagged [] hand []) (ports : s.PortsOk) (up : (s.hpu p).port = .up) (gone : h.port ≠ .up)
    (noJoin : h.heldJoin = none)
    (sends : ∀ u, h.sendList.countP (fun r => r.tag == u) ≤ if h.tags.get u = .outstanding then 1 else 0) :
    (s.noticed p reason h).Tagged [] hand [] := by
  have own : (s.noticed p reason h).hpu p = h := Four.get_set_same _ _ _
  have other {q : Port} (away : q ≠ p) : (s.noticed p reason h).hpu q = s.hpu q := Four.get_set_other _ _ away
  have free (d : Bank) : ¬s.Awaits p d := ports.no_record (by simp [up]) d
  have awaits {q : Port} {d : Bank} (was : s.Awaits q d) : (s.noticed p reason h).Awaits q d := by
    have away : q ≠ p := fun same => free d (same ▸ was)
    obtain ⟨r, record, rest⟩ := was
    exact ⟨r, (Four.get_set_other _ _ away).trans record, rest⟩
  have awaited {d : Bank} {a : Access} (current : (s.bank d).current = some a) : (s.noticed p reason h).Awaits p d := by
    refine ⟨_, Four.get_set_same _ _ _, rfl, ?_⟩
    rw [Four.get_map]
    change (s.bank d).current.isSome = true
    rw [current]
    rfl
  have kept (q : Port) (u : Tag) (away : q ≠ p) : (s.noticed p reason h).inStore q u = s.inStore q u := by
    have held (l : List (Port × Tag)) : (l.filter (fun x => x.1 != p)).count (q, u) = l.count (q, u) := by
      rw [List.count_filter (by simpa using away)]
    have heldRequests : (s.noticed p reason h).heldRequests.count (q, u) = s.heldRequests.count (q, u) := by
      change (s.config.heldCommits.filter (fun x => x.1 != p) ++ s.config.heldReopens.filter (fun x => x.1 != p) ++
        s.refresh.heldWakes.filter (fun x => x.1 != p)).count (q, u) = _
      rw [← List.filter_append, ← List.filter_append, held]
      rfl
    have park : (s.noticed p reason h).park.countP (ParkEntry.isOf q u) = s.park.countP (ParkEntry.isOf q u) :=
      countP_filter_of_imp (fun e mine => by simpa [(ParkEntry.isOf_iff.1 mine).1] using away) _
    rw [State.inStore, State.inStore, other away, heldRequests, park]
  have left (u : Tag) : (s.noticed p reason h).inStore p u = h.sendList.countP (fun r => r.tag == u) := by
    have held : (s.noticed p reason h).heldRequests.count (p, u) = 0 := by
      change (s.config.heldCommits.filter (fun x => x.1 != p) ++ s.config.heldReopens.filter (fun x => x.1 != p) ++
        s.refresh.heldWakes.filter (fun x => x.1 != p)).count (p, u) = _
      rw [← List.filter_append, ← List.filter_append]
      exact List.count_eq_zero_of_not_mem (fun mem => by simpa using (List.mem_filter.1 mem).2)
    have park : (s.noticed p reason h).park.countP (ParkEntry.isOf p u) = 0 :=
      List.countP_eq_zero.2 (fun e he mine => by
        have := (List.mem_filter.1 he).2
        simp [(ParkEntry.isOf_iff.1 mine).1] at this)
    rw [State.inStore, own, held, park, noJoin]
    exact Nat.zero_add _
  refine ⟨fun q u => ?_, fun q u => ?_, fun q => ?_, fun d a ha host => ?_, fun d a ha host absent => ?_, ok.once, List.nil_subset _,
    fun g hg => ?_, fun g hg x hx => ?_⟩
  · rw [List.count_nil, Nat.zero_add]
    by_cases same : q = p
    · subst same
      have down : (s.noticed q reason h).isUp q = false := by
        rw [State.isUp, own]
        simpa using gone
      rw [down, left, State.allowed, State.tagState, own]
      simpa using sends u
    · have before := ok.load q u
      have still : (s.noticed p reason h).isUp q = s.isUp q := by rw [State.isUp, other same]; rfl
      have asks : (s.noticed p reason h).tally (Access.asks q u) (gripped hand) = s.tally (Access.asks q u) (gripped hand) :=
        State.noticed_tally (fun a mine => by
          simp only [Access.asks, Bool.and_eq_true, beq_iff_eq] at mine
          exact .inr (by rw [mine.1.2]; exact same)) _
      have inits : (s.noticed p reason h).config.inits.countP (InitFlight.isOf q u) = s.config.inits.countP (InitFlight.isOf q u) :=
        countP_filter_of_imp (fun i mine => by simp [(InitFlight.isOf_iff.1 mine).1, same]) _
      rw [still, kept q u same, State.inWork, asks, inits, State.allowed, State.tagState, other same]
      rwa [List.count_nil, Nat.zero_add] at before
  · obtain ⟨all, one⟩ := ok.flights q u
    by_cases same : q = p
    · subst same
      rw [State.noticed_inits, State.noticed_writes (by omega), all]
      split
      · exact ⟨rfl, one⟩
      · exact ⟨rfl, Nat.zero_le _⟩
    · have writes : (s.noticed p reason h).tally (Access.writes q u) [] = s.tally (Access.writes q u) [] :=
        State.noticed_tally (fun a mine => by
          simp only [Access.writes, Bool.and_eq_true, beq_iff_eq] at mine
          exact .inr (by rw [mine.1.2]; exact same)) _
      have inits : (s.noticed p reason h).config.inits.countP (InitFlight.isOf q u) = s.config.inits.countP (InitFlight.isOf q u) :=
        countP_filter_of_imp (fun i mine => by simp [(InitFlight.isOf_iff.1 mine).1, same]) _
      rw [writes, inits]
      exact ⟨all, one⟩
  · have recovers : (s.noticed p reason h).tally (Access.recovers q) [] = s.tally (Access.recovers q) [] :=
      State.noticed_tally (fun a mine => by
        simp only [Access.recovers, Bool.and_eq_true, Bool.not_eq_true'] at mine
        exact .inl mine.1) _
    rw [recovers]
    refine (ok.recovering q).imp_right (fun waits some => ?_)
    obtain ⟨r, record, phase⟩ := waits some
    have away : q ≠ p := by
      rintro rfl
      rw [(ports q).record_none (by simp [up])] at record
      cases record
    exact ⟨r, (Four.get_set_other _ _ away).trans record, phase⟩
  · rw [State.noticed_bank] at ha
    obtain ⟨was, stays⟩ := List.mem_filter.1 ha
    have away : a.port ≠ p := by
      rintro rfl
      simp [host] at stays
    rw [other away]
    exact ok.queued d a was host
  · rw [State.noticed_bank] at ha
    by_cases same : a.port = p
    · rw [same]
      exact awaited (Option.mem_toList.1 ha)
    · rw [other same] at absent
      exact awaits (ok.left d a ha host absent)
  · rw [State.noticed_bank]
    exact ok.held g hg
  · by_cases same : x.1 = p
    · rw [same]
      exact .inr (awaited (ok.held g hg).2)
    · rw [other same]
      exact (ok.waits g hg x hx).imp_right awaits

/-- The start of a teardown, with what falls together with it (R160 to R162). -/
theorem State.Tagged.startTeardown (ok : s.Tagged [] hand []) (ports : s.PortsOk) (up : (s.hpu p).port = .up) (reason : LossReason) :
    (s.startTeardown p reason).Tagged [] hand [] := by
  have cleared : (s.clearPort p reason).Tagged [] hand [] := by
    rw [State.clearPort_eq]
    refine (ok.noticed (h := (s.hpu p).startTeardown) ports up (fun same => by cases same) ((ports p).heldJoin_none (by simp [up])) (fun u => ?_)).steady (.raiseOthers _ _ _)
    have bound := ok.load p u
    have one := s.allowed_le p u
    rw [State.inStore] at bound
    change (s.hpu p).sendList.countP _ ≤ _
    split
    · omega
    · rename_i free
      refine (List.countP_eq_zero.2 (fun r hr tag => free ?_)).le
      exact ((s.hpu p).startTeardown_tags u).2 ⟨r, hr, by simpa using tag⟩
  exact cleared.settle (portsOk_moves.clear reason ports up)

/-- The start of a teardown by link loss. -/
theorem State.Tagged.startLost (ok : s.Tagged [] hand []) (ports : s.PortsOk) (up : (s.hpu p).port = .up) :
    ((s.modHpu p Hpu.loseLink).startTeardown p .link).Tagged [] hand [] := by
  have cleared : ((s.modHpu p Hpu.loseLink).clearPort p .link).Tagged [] hand [] := by
    have share := State.clearPort_share (s := s) (p := p) (reason := .link) (s.hpu p).loseLink s.refresh.votes rfl
    change (s.modHpu p Hpu.loseLink).clearPort p .link = _ at share
    rw [share]
    exact (ok.noticed ports up (fun same => by cases same) rfl (fun u => Nat.zero_le _)).steady (.raiseOthers _ _ _)
  exact cleared.settle (portsOk_moves.clearLost .link ports up)

end Depart

end Sys2Proof.Machine

namespace Sys2Proof.Machine

/-! ### What falls inside accesses in progress (R51, R56, R58, R162) -/

section Inside

variable {owed owed' : List (Port × Tag)} {hand rest : List Grip} {s : State} {b : Bank} {a : Access}

/-- The access of an access underway, with its answers in hand. -/
def Underway.grip (x : Underway) : Grip := ⟨x.bank, x.access, asked x.answers⟩

/-- What an access underway has still to do ends as it should: it is no group write, and its pass reaches each entry once. -/
structure Underway.Orderly (x : Underway) : Prop where
  plain : x.access.isGroupWrite = false
  once : OneEach x.rest

theorem gripped_underway (l : List Underway) : gripped (l.map Underway.grip) = l.map (fun x => x.bank) := by
  rw [gripped, List.map_map]
  rfl

theorem Reachable.sublist {l m : List ParkEntry} (h : Reachable l s) (sub : m.Sublist l) : Reachable m s :=
  ⟨h.once.sublist sub, fun e he => h.parked e (sub.subset he)⟩

/-- A cascade comes as far as some evaluation. -/
theorem State.Tagged.comeTo {y : Evaluated} (ports : y.state.PortsOk) (plain : a.isGroupWrite = false)
    (ok : y.state.Tagged owed (⟨b, a, asked y.answers⟩ :: hand) []) (passes entries : Nat) :
    (Machine.comeTo b a passes entries y).1.Tagged owed ((Machine.comeTo b a passes entries y).2.grip :: hand) [] ∧
      (Machine.comeTo b a passes entries y).2.Orderly := by
  have stepped := State.Tagged.cascadeSteps (l := []) passes (c := a.cell) ports ok
  have reach : Reachable (if (Machine.cascadeSteps a.cell passes y).changed then
      (Machine.cascadeSteps a.cell passes y).state.chain a.cell else []) (Machine.cascadeSteps a.cell passes y).state := by
    split
    · exact .chain stepped.oneEach a.cell
    · exact ⟨List.Pairwise.nil, List.forall_mem_nil _⟩
  have passed := stepped.cascadePass (reach.sublist (List.take_sublist entries _)) (portsOk_moves.cascadeSteps trivial passes ports)
  rw [List.append_assoc, ← asked_append] at passed
  exact ⟨passed, plain, reach.once.sublist (List.drop_sublist entries _)⟩

/-- The next bank's access comes along, or stays as it is. -/
theorem State.Tagged.comeAlong {x : State × List Underway} (ports : x.1.PortsOk) (ok : x.1.Tagged owed (x.2.map Underway.grip) [])
    (orderly : ∀ u ∈ x.2, u.Orderly) (new : b ∉ x.2.map (fun u => u.bank)) :
    (Machine.comeAlong x b).1.Tagged owed ((Machine.comeAlong x b).2.map Underway.grip) [] ∧
      (∀ u ∈ (Machine.comeAlong x b).2, u.Orderly) ∧ (Machine.comeAlong x b).2.map (fun u => u.bank) ⊆ b :: x.2.map (fun u => u.bank) := by
  have counted := ok.steady (t := { x.1 with choices := x.1.choices + 2 }) (.unseen rfl rfl rfl rfl rfl rfl)
  obtain same | ⟨a, y, passes, entries, at_, opens, along⟩ := comeAlong_cases x b
  · rw [same]
    exact ⟨counted, orderly, List.subset_cons_self _ _⟩
  · have opened := counted.opened at_ (by rwa [gripped_underway]) opens
    have plain := (State.openAccess_answers opens).1
    obtain ⟨came, next⟩ := State.Tagged.comeTo (portsOk_moves.openAccess trivial opens (portsOk_moves.choices _ ports)) plain opened
      passes entries
    rw [along]
    refine ⟨?_, fun u hu => ?_, ?_⟩
    · rw [List.map_append]
      exact came.handOrder List.perm_append_comm
    · obtain before | last := List.mem_append.1 hu
      · exact orderly u before
      · rw [List.mem_singleton.1 last]
        exact next
    · rw [List.map_append]
      exact List.append_subset.2 ⟨List.subset_cons_self _ _, fun d hd => List.mem_cons.2 (.inl (List.mem_singleton.1 hd))⟩

theorem State.Tagged.comeAlongAll {x : State × List Underway} (banks : List Bank) (ports : x.1.PortsOk)
    (ok : x.1.Tagged owed (x.2.map Underway.grip) []) (orderly : ∀ u ∈ x.2, u.Orderly)
    (once : (banks ++ x.2.map (fun u => u.bank)).Nodup) :
    (banks.foldl Machine.comeAlong x).1.PortsOk ∧
      (banks.foldl Machine.comeAlong x).1.Tagged owed ((banks.foldl Machine.comeAlong x).2.map Underway.grip) [] ∧
      ∀ u ∈ (banks.foldl Machine.comeAlong x).2, u.Orderly := by
  induction banks generalizing x with
  | nil => exact ⟨ports, ok, orderly⟩
  | cons b later ih =>
    obtain ⟨new, once⟩ := List.nodup_cons.1 once
    obtain ⟨came, next, banks⟩ := State.Tagged.comeAlong ports ok orderly (fun mem => new (List.mem_append_right _ mem))
    refine ih (portsOk_moves.comeAlong b ⟨ports, fun _ _ => ⟨trivial, fun _ _ => trivial⟩⟩).1 came next ?_
    obtain ⟨onceLater, -, apart⟩ := List.nodup_append'.1 once
    refine List.nodup_append'.2 ⟨onceLater, gripped_underway _ ▸ came.once, fun d hd mem => ?_⟩
    obtain rfl | before := List.mem_cons.1 (banks mem)
    · exact new (List.mem_append_left _ hd)
    · exact apart hd before

/-- An access underway goes on to its end. -/
theorem State.Tagged.goOn {x : Underway} (ports : s.PortsOk) (ok : s.Tagged owed (x.grip :: rest) []) (orderly : x.Orderly) :
    (Machine.goOn s x).Tagged owed rest [] := by
  have reach : Reachable (x.rest.filter (fun e => (s.parkedOf e.port e.tag).isSome)) s := by
    refine ⟨orderly.once.filter _, fun e he => ?_⟩
    obtain ⟨y, found⟩ := Option.isSome_iff_exists.1 (List.mem_filter.1 he).2
    exact ⟨y, List.mem_of_find?_eq_some found, ParkEntry.isOf_iff.1 (List.find?_some found)⟩
  have passed := ok.cascadePass reach ports
  rw [← asked_append] at passed
  have passedPorts := portsOk_moves.cascadePass (l := x.rest.filter (fun e => (s.parkedOf e.port e.tag).isSome))
    (fun _ _ => trivial) ports
  unfold Machine.goOn
  refine State.Tagged.closeAccess orderly.plain (portsOk_moves.runOut trivial (portsOk_moves.expireInCascade _ _ passedPorts))
    (State.Tagged.runOut (l := []) (portsOk_moves.expireInCascade _ _ passedPorts) ?_)
  exact passed.expireInCascade x.access.cell _

theorem State.Tagged.goOnAll (l : List Underway) (ports : s.PortsOk) (ok : s.Tagged owed (l.map Underway.grip) [])
    (orderly : ∀ u ∈ l, u.Orderly) : (l.foldl Machine.goOn s).Tagged owed [] [] := by
  induction l generalizing s with
  | nil => exact ok
  | cons x later ih =>
    exact ih (portsOk_moves.goOn trivial (fun _ _ => trivial) ports) (ok.goOn ports (orderly x List.mem_cons_self))
      (fun u hu => orderly u (List.mem_cons_of_mem _ hu))

/-- A happening that keeps the invariant whatever accesses are in hand keeps it inside those in progress too. -/
theorem State.Tagged.inside {hit : ParkEntry → Bool} {happening : State → State} (ports : s.PortsOk) (ok : s.Tagged owed [] [])
    (kept : ∀ t hand, SamePorts s t → t.PortsOk → t.Tagged owed hand [] →
      (happening t).PortsOk ∧ (happening t).Tagged owed' hand []) : (s.inside hit happening).Tagged owed' [] [] := by
  unfold State.inside
  simp only
  split
  · exact (kept s [] (.rfl' s) ports ok).2
  · have order := inKeyOrder_perm (fun b => Config.orderKey s.choices b.val) (allFour.filter (s.inAccess hit))
    obtain ⟨ports', came, orderly⟩ := State.Tagged.comeAlongAll (x := ({ s with choices := s.choices + 2 }, []))
      (inKeyOrder (fun b => Config.orderKey s.choices b.val) (allFour.filter (s.inAccess hit))) (portsOk_moves.choices _ ports)
      (ok.steady (.unseen rfl rfl rfl rfl rfl rfl)) (List.forall_mem_nil _) (by
        rw [List.map_nil, List.append_nil]
        exact order.nodup_iff.2 (allFour_nodup.filter _))
    have same (l : List Bank) (x : State × List Underway) (h : SamePorts s x.1) : SamePorts s (l.foldl Machine.comeAlong x).1 := by
      induction l generalizing x with
      | nil => exact h
      | cons b later ih => exact ih _ (h.trans (.comeAlong x b))
    obtain ⟨ports'', happened⟩ := kept _ _ (same _ ({ s with choices := s.choices + 2 }, []) (.of_hpus rfl)) ports' came
    exact State.Tagged.goOnAll _ ports'' (happened.handOrder ((inKeyOrder_perm _ _).map _)) (fun u hu => orderly u (mem_inKeyOrder.1 hu))

end Inside

end Sys2Proof.Machine

namespace Sys2Proof.Machine

/-! ### Admitted requests (R55, R64, R79, R114, R124, R134, R139, R143, R156, R157) -/

section Serve

variable {hand : List Grip} {s : State} {p : Port} {f : Frame}

theorem State.Tagged.serveCell {w : Work} (ok : s.Tagged [(p, f.tag)] [] []) (up : (s.hpu p).port = .up)
    (host : (cellAccess p f w).isHost = true) (plain : (cellAccess p f w).isGroupWrite = false) :
    (s.enqueue (cellAccess p f w)).Tagged [] [] [] := State.Tagged.enqueueAsked (a := cellAccess p f w) ok host plain rfl up

theorem State.Tagged.takeCancel (ok : s.Tagged [(p, f.tag)] hand []) : (Machine.takeCancel p f s).Tagged [] hand [] := by
  unfold Machine.takeCancel
  split
  · rename_i e found
    exact (ok.endParked .cancelled (List.mem_of_find?_eq_some found)).answer _
  · exact ok.answer _

theorem State.Tagged.serveUnwatch (ok : s.Tagged [(p, f.tag)] [] []) : (Machine.serveUnwatch p f s).Tagged [] [] [] := by
  unfold Machine.serveUnwatch
  split
  · exact (ok.steady (.setWatches _ s)).answer _
  · exact ok.answer _

/-- Requests of a port leave a held list, or join its end. -/
theorem held_split_count (p : Port) (held : List (Port × Tag)) (x : Port × Tag) :
    (heldOf p held).count x + (held.filter (fun y => y.1 != p)).count x = held.count x := by
  rw [← List.count_append]
  exact (List.filter_append_perm (fun y => y.1 == p) held).count_eq x

theorem holdRequest_count (p : Port) (t : Tag) (held : List (Port × Tag)) (x : Port × Tag) :
    (heldOf p held).count x + (holdRequest p t held).count x = held.count x + [(p, t)].count x := by
  rw [holdRequest, List.count_append, ← Nat.add_assoc, held_split_count]

theorem State.Tagged.serveCommit (ok : s.Tagged [(p, f.tag)] [] []) : (Machine.serveCommit p f s).Tagged [] [] [] := by
  unfold Machine.serveCommit
  split
  · refine (State.Tagged.replyHeld _ _ (held := heldOf p s.config.heldCommits) (owed := []) ?_).testConfig
    refine ok.heldMoved (r := s.refresh) (k := { s.config with
      commits := s.config.commits.set p (some s.table.generation), heldCommits := holdRequest p f.tag s.config.heldCommits }) rfl ?_
    refine List.perm_iff_count.2 (fun x => ?_)
    have held := holdRequest_count p f.tag s.config.heldCommits x
    simp only [State.heldRequests, List.count_append, List.count_nil]
    omega
  · exact ok.answer _

theorem State.Tagged.holdReopen (ok : s.Tagged [(p, f.tag)] [] []) : (s.holdReopen p f.tag).Tagged [] [] [] := by
  refine State.Tagged.replyHeld _ _ (held := heldOf p s.config.heldReopens) (owed := []) ?_
  refine ok.heldMoved (r := s.refresh) (k := { s.config with heldReopens := holdRequest p f.tag s.config.heldReopens }) rfl ?_
  refine List.perm_iff_count.2 (fun x => ?_)
  have held := holdRequest_count p f.tag s.config.heldReopens x
  simp only [State.heldRequests, List.count_append, List.count_nil]
  omega

theorem State.Tagged.serveReopen (ok : s.Tagged [(p, f.tag)] [] []) : (Machine.serveReopen p f s).Tagged [] [] [] := by
  unfold Machine.serveReopen
  split
  · exact (State.Tagged.holdReopen (ok.steady (t := s.modConfig (fun k => { k with reopenVotes := k.reopenVotes.set p true }))
      (.setConfig rfl rfl rfl))).testConfig
  · exact ok.holdReopen

theorem State.Tagged.serveStay (ok : s.Tagged [(p, f.tag)] [] []) : (Machine.serveStay p f s).Tagged [] [] [] := by
  unfold Machine.serveStay
  split
  · refine (State.Tagged.replyHeld _ _ (held := heldOf p s.config.heldReopens) ?_).answer _
    refine ok.heldMoved (r := s.refresh) (k := { s.config with
      reopenVotes := s.config.reopenVotes.set p false, heldReopens := s.config.heldReopens.filter (fun x => x.1 != p) }) rfl ?_
    refine List.perm_iff_count.2 (fun x => ?_)
    have held := held_split_count p s.config.heldReopens x
    simp only [State.heldRequests, List.count_append]
    omega
  · exact ok.answer _

theorem State.Tagged.holdWake (ok : s.Tagged [(p, f.tag)] [] []) : (s.holdWake p f.tag).Tagged [] [] [] := by
  refine ok.heldMoved (k := s.config) (r := { s.refresh with heldWakes := s.refresh.heldWakes ++ [(p, f.tag)] }) rfl ?_
  refine List.perm_iff_count.2 (fun x => ?_)
  simp only [State.heldRequests, List.count_append, List.count_nil]
  omega

theorem State.Tagged.serveWake (ok : s.Tagged [(p, f.tag)] [] []) : (Machine.serveWake p f s).Tagged [] [] [] := by
  unfold Machine.serveWake
  split
  · exact ok.answer _
  · exact ok.holdWake.steady (.setRefresh rfl)
  · exact ok.holdWake
  · exact ok.holdWake

theorem State.Tagged.tableWritten (ok : s.Tagged [(p, f.tag)] [] []) (g : RegionTable → RegionTable) :
    (s.tableWritten g).Tagged [(p, f.tag)] [] [] :=
  State.Tagged.answerCommits _ (ok.steady (.unseen rfl rfl rfl rfl rfl rfl))

theorem State.Tagged.serveWriteRegion (ok : s.Tagged [(p, f.tag)] [] []) : (Machine.serveWriteRegion p f s).Tagged [] [] [] := by
  unfold Machine.serveWriteRegion
  split
  · exact (ok.tableWritten _).answer _
  · exact ok.forget (fun _ => Nat.zero_le _)

theorem State.Tagged.serveWriteSettings (ok : s.Tagged [(p, f.tag)] [] []) : (Machine.serveWriteSettings p f s).Tagged [] [] [] := by
  unfold Machine.serveWriteSettings
  split
  · exact (ok.tableWritten _).answer _
  · exact ok.forget (fun _ => Nat.zero_le _)

theorem State.Tagged.serveInitCells (ok : s.Tagged [(p, f.tag)] [] []) (up : (s.hpu p).port = .up) :
    (Machine.serveInitCells p f s).Tagged [] [] [] := by
  unfold Machine.serveInitCells
  split
  · exact ok.enqueueInit up _
  · exact ok.forget (fun _ => Nat.zero_le _)

/-- A JOIN is held in the place of an earlier one, which is answered (R156). -/
theorem State.Tagged.holdJoin {k : Hpu} (ok : s.Tagged [(p, f.tag)] [] []) (port : k.port = (s.hpu p).port)
    (tags : k.tags = (s.hpu p).tags) (join : k.heldJoin = some f.tag)
    (sends : ∀ u, k.sendList.countP (fun r => r.tag == u) ≤
      (s.hpu p).sendList.countP (fun r => r.tag == u) + (s.hpu p).heldJoin.toList.count u) :
    State.Tagged [] [] [] { s with hpus := s.hpus.set p k } := by
  refine ok.setHpu (by rw [port]) (fun _ _ _ => Nat.zero_le _) (fun u => ?_)
  have before := ok.load p u
  have more := sends u
  have one : [(p, f.tag)].count (p, u) = [f.tag].count u := by
    rw [List.count_singleton, List.count_singleton]
    simp [Prod.ext_iff]
  rw [one, State.inStore, State.allowed, State.tagState] at before
  rw [join, tags, Option.toList_some, List.count_nil]
  omega

theorem State.Tagged.serveJoin (ok : s.Tagged [(p, f.tag)] [] []) (ports : s.PortsOk) : (Machine.serveJoin p f s).Tagged [] [] [] := by
  have joined (other : (s.hpu p).port ≠ .up) (noRecord : (s.hpu p).port ≠ .clearing) :
      ((s.joinUp p).answer .join p f .ok).Tagged [] [] [] :=
    ((ok.goUp other (ports.no_record noRecord)).steady (.raiseOthers p _ _)).answer _
  unfold Machine.serveJoin
  split
  · exact ok.answer _
  · simp only
    split
    · rename_i t held
      rw [State.reply, State.modHpu_modHpu]
      refine ok.holdJoin ?_ ?_ rfl (fun u => ?_)
      · dsimp only
        split <;> rfl
      · dsimp only
        split <;> rfl
      · dsimp only
        rw [held, Option.toList_some]
        split
        · rw [List.countP_append, List.countP_singleton, List.count_singleton]
          exact le_rfl
        · exact Nat.le_add_right _ _
    · exact ok.holdJoin rfl rfl rfl (fun u => Nat.le_add_right _ _)
  · rename_i linked
    exact joined (by simp [linked]) (by simp [linked])
  · rename_i down
    exact joined (by simp [down]) (by simp [down])

theorem State.Tagged.serveLeave (ok : s.Tagged [(p, f.tag)] [] []) (ports : s.PortsOk) (up : (s.hpu p).port = .up) :
    (Machine.serveLeave p f s).Tagged [] [] [] := by
  unfold Machine.serveLeave State.depart
  refine ok.inside ports (fun t hand same ports' ok' => ?_)
  have answered : (t.answer .leave p f .ok).PortsOk := portsOk_moves.answer .leave p f .ok ports'
  have still : ((t.answer .leave p f .ok).hpu p).port = .up := (SamePorts.reply p _ _ _ t p).1.trans ((same p).1.trans up)
  exact ⟨portsOk_moves.settle (portsOk_moves.clear _ answered still), (ok'.answer _).startTeardown answered still _⟩

/-- Every admitted request is answered, held, queued or parked with its tag, or forgotten. -/
theorem State.Tagged.serveOf {k : Kind} (ok : s.Tagged [(p, f.tag)] [] []) (ports : s.PortsOk)
    (admissible : k = .join ∨ k = .status ∨ (s.hpu p).port = .up) : (Machine.serveOf k p f s).Tagged [] [] [] := by
  cases k with
  | operate =>
    change (serveOperate p f s).Tagged [] [] []
    unfold serveOperate
    split
    · exact ok.serveCell (by simpa using admissible) rfl rfl
    · exact ok.forget (fun _ => Nat.zero_le _)
  | groupRead => exact ok.serveCell (by simpa using admissible) rfl rfl
  | setRecovery => exact ok.serveCell (by simpa using admissible) rfl rfl
  | cancel =>
    exact ok.inside ports (fun t hand _ ports' ok' => ⟨portsOk_moves.takeCancel p f ports', ok'.takeCancel⟩)
  | watch =>
    change (serveWatch p f s).Tagged [] [] []
    unfold serveWatch
    split
    · exact ok.serveCell (by simpa using admissible) rfl rfl
    · exact ok.forget (fun _ => Nat.zero_le _)
  | unwatch => exact ok.serveUnwatch
  | fetchEvents => exact (ok.steady (.modEvents p _ s)).answer _
  | attnOn => exact (ok.steady (.modEvents p _ s)).answer _
  | attnOff => exact (ok.steady (.modEvents p _ s)).answer _
  | quiesce => exact (ok.steady (t := s.modRefresh (fun r => { r with votes := r.votes.set p true })) (.setRefresh rfl)).answer _
  | wake => exact ok.serveWake
  | writeRegion => exact ok.serveWriteRegion
  | readRegion => exact ok.answer _
  | writeSettings => exact ok.serveWriteSettings
  | initCells => exact ok.serveInitCells (by simpa using admissible)
  | commit => exact ok.serveCommit
  | reopen => exact ok.serveReopen
  | stay => exact ok.serveStay
  | join => exact ok.serveJoin ports
  | leave => exact ok.serveLeave ports (by simpa using admissible)
  | status => exact ok.answer _

end Serve

end Sys2Proof.Machine

namespace Sys2Proof.Machine

/-! ### Frames, links and sending (R148 to R152, R154) -/

section Frames

variable {owed : List (Port × Tag)} {hand : List Grip} {done : List Bank} {s : State} {p : Port} {f : Frame}

/-- A port's HPU changes in what the tags do not see. -/
theorem State.Tagged.framed {k : Hpu} (ok : s.Tagged owed hand done) (port : k.port = .up ↔ (s.hpu p).port = .up)
    (tags : k.tags = (s.hpu p).tags) (join : k.heldJoin = (s.hpu p).heldJoin) (sends : k.sendList = (s.hpu p).sendList) :
    State.Tagged owed hand done { s with hpus := s.hpus.set p k } :=
  ok.setHpu port (fun _ _ _ => le_rfl) (fun u => by
    rw [tags, join, sends]
    exact ok.load p u)

theorem Hpu.validFrame_up_iff (h : Hpu) : h.validFrame.port = .up ↔ h.port = .up := by
  rw [Hpu.validFrame_port]
  split
  · rename_i down
    simp [down.2]
  · rfl

theorem State.Tagged.receiveValid (ok : s.Tagged owed hand done) (p : Port) : (s.receiveValid p).Tagged owed hand done :=
  ok.framed (Hpu.validFrame_up_iff _) (Hpu.validFrame_tags _) (Hpu.validFrame_heldJoin _) (Hpu.validFrame_sendList _)

theorem State.Tagged.unadmitted (ok : s.Tagged owed hand done) (p : Port) :
    State.Tagged owed hand done { s with hpus := s.hpus.set p { (s.hpu p).validFrame with admission := none } } :=
  ok.framed (Hpu.validFrame_up_iff _) (Hpu.validFrame_tags _) (Hpu.validFrame_heldJoin _) (Hpu.validFrame_sendList _)

/-- A request with a FREE tag is admitted: its tag is OUTSTANDING, and it is owed its answer. -/
theorem State.Tagged.admitted (ok : s.Tagged [] [] []) (free : s.tagState p f.tag = .free) (keep : Bool) :
    (s.admitted keep p f).Tagged [(p, f.tag)] [] [] := by
  have taken : State.Tagged [(p, f.tag)] [] [] { s with
      hpus := s.hpus.set p { (s.hpu p).validFrame with tags := (s.hpu p).tags.set f.tag .outstanding, admission := none } } := by
    refine ok.setHpu (Hpu.validFrame_up_iff _) (fun q u other => ?_) (fun u => ?_)
    · rw [List.count_eq_zero_of_not_mem (by simp [other])]
      exact Nat.zero_le _
    · have before := ok.load p u
      rw [List.count_nil, Nat.zero_add, State.inStore, State.allowed] at before
      simp only [Hpu.validFrame_heldJoin, Hpu.validFrame_sendList]
      by_cases same : u = f.tag
      · subst same
        simp only [free, reduceCtorEq, if_false] at before
        rw [Eight.get_set_same, if_pos rfl, List.count_singleton_self]
        omega
      · rw [Eight.get_set_other _ _ same, List.count_eq_zero_of_not_mem (by simp [same]), Nat.zero_add]
        exact before
  exact taken.steady (.setRefresh rfl)

theorem State.Tagged.refused (ok : s.Tagged [(p, f.tag)] [] []) (alive : (s.hpu p).link = .alive) (kind : Byte) (st : Status) :
    (s.handed p [{ kind := kind, tag := f.tag, body := .refused st }]).Tagged [] [] [] := by
  rw [← State.reply_alive kind f.tag (.refused st) alive]
  exact ok.reply _ _

theorem State.Tagged.receiveRequest (ports : s.PortsOk) (ok : s.Tagged [] [] []) (k : Kind) (p : Port) (f : Frame) :
    (s.receiveRequest k p f (Machine.serveOf k p f)).Tagged [] [] [] := by
  obtain ⟨-, same⟩ | ⟨-, -, same⟩ | ⟨st, -, free, -, same⟩ | ⟨-, free, passes, same⟩ :=
    State.receiveRequest_cases k p f (Machine.serveOf k p f) s
  all_goals rw [same]
  · exact (ok.receiveValid p).steady (.raise _ _ _)
  · exact (ok.unadmitted p).steady (.raise _ _ _)
  · exact (ok.admitted free _).refused (State.admitted_alive _ _ _ _) _ st
  · refine (ok.admitted free _).serveOf (portsOk_moves.admitted _ _ _ ports) ?_
    have port : ((s.admitted (keepsVote k) p f).hpu p).port = ((s.receiveValid p).hpu p).port := by
      simp [State.receiveValid]
    rw [port]
    exact up_of_refusal_none passes

theorem State.Tagged.receiveUnknown (ok : s.Tagged [] [] []) (p : Port) (code : Byte) (f : Frame) :
    (s.receiveUnknown p code f).Tagged [] [] [] := by
  unfold State.receiveUnknown
  simp only
  split
  · cases tag : s.tagState p f.tag with
    | free =>
      rw [State.admit_free _ _ _ tag]
      exact (ok.admitted tag _).refused (State.admitted_alive _ _ _ _) _ _
    | outstanding =>
      rw [State.admit_inUse _ _ _ tag]
      exact (ok.unadmitted p).steady (.raise _ _ _)
  · exact (ok.receiveValid p).steady (.raise _ _ _)

/-- The link of a port that is not UP is lost: nothing of it was to be answered but its responses and its held JOIN. -/
theorem State.Tagged.lostLink (ports : s.PortsOk) (ok : s.Tagged [] [] []) (gone : (s.hpu p).port ≠ .up) :
    (s.modHpu p Hpu.lostLink).Tagged [] [] [] := by
  have absent := (ports p).absent gone
  refine ok.setHpu ?_ (fun _ _ _ => le_rfl) (fun u => ?_)
  · refine iff_of_false ?_ gone
    change (if (s.hpu p).port = .linked then PortState.down else (s.hpu p).port) ≠ .up
    split
    · exact fun same => by cases same
    · exact gone
  · have park : s.park.countP (ParkEntry.isOf p u) = 0 :=
      List.countP_eq_zero.2 (fun e he own => absent.park e he (ParkEntry.isOf_iff.1 own).1)
    have held : s.heldRequests.count (p, u) = 0 := by
      refine List.count_eq_zero_of_not_mem (fun mem => absent.heldRequests (p, u) ?_ rfl)
      simp only [State.heldRequests, List.mem_append] at mem ⊢
      exact mem.elim (fun config => config.elim (fun commit => .inl (.inr commit)) .inr) (fun wake => .inl (.inl wake))
    rw [park, held, if_neg (by simpa [State.isUp] using gone)]
    exact Nat.zero_le _

theorem State.Tagged.loseLink (ports : s.PortsOk) (ok : s.Tagged [] [] []) (p : Port) : (s.loseLink p).Tagged [] [] [] := by
  have lost (other : (s.hpu p).port ≠ .up) := ok.lostLink ports other
  unfold State.loseLink
  simp only
  split
  · rename_i linked
    have same : (s.modHpu p Hpu.lostLink) = s.modHpu p (fun k => { k.loseLink with port := .down }) := by
      change (s.hpus.get p).port = _ at linked
      simp [State.modHpu, Hpu.lostLink, linked]
    rw [State.modHpu_modHpu, ← same]
    exact (lost (by simp [linked])).steady (.testRetention _)
  · rename_i up
    unfold State.depart
    refine ok.inside ports (fun t hand same ports' ok' => ?_)
    have still : (t.hpu p).port = .up := (same p).1.trans up
    exact ⟨portsOk_moves.settle (portsOk_moves.clearLost _ ports' still), ok'.startLost ports' still⟩
  all_goals
    rename_i other
    have same : (s.modHpu p Hpu.lostLink) = s.modHpu p Hpu.loseLink := by
      change (s.hpus.get p).port = _ at other
      simp [State.modHpu, Hpu.lostLink, Hpu.loseLink, other]
    rw [← same]
    exact lost (by simp [other])

/-- The first response of the send list leaves, and its tag is FREE. -/
theorem State.Tagged.sendFirst (ok : s.Tagged [] [] []) (p : Port) : (s.modHpu p Hpu.sendFirst).Tagged [] [] [] := by
  change State.Tagged [] [] [] { s with hpus := s.hpus.set p (s.hpu p).sendFirst }
  unfold Hpu.sendFirst
  split
  · exact ok.framed Iff.rfl rfl rfl rfl
  · rename_i r rest sends
    refine ok.setHpu Iff.rfl (fun _ _ _ => le_rfl) (fun u => ?_)
    have before := ok.load p u
    have one := s.allowed_le p u
    rw [State.inStore, sends, List.countP_cons] at before
    change _ + (_ + (s.hpu p).heldJoin.toList.count u + rest.countP _) ≤ _
    by_cases same : u = r.tag
    · subst same
      simp only [beq_self_eq_true, if_true] at before
      omega
    · have other : (r.tag == u) = false := by simpa using Ne.symm same
      simp only [other, Bool.false_eq_true, if_false, Nat.add_zero, State.allowed] at before
      rw [Eight.get_set_other _ _ same]
      exact before

end Frames

end Sys2Proof.Machine

namespace Sys2Proof.Machine

/-! ### The other happenings, and every command (R52, R90, R102 to R115, R174) -/

section Happenings

variable {s : State} {b : Bank}

/-- A change of the banks and of the Refresh Controller, each bank taking its own steps. -/
theorem Quiet.setBanks {banks : Four BankCtl} {r : RefreshCtl} (works : ∀ b, (s.bank b).Works (banks.get b))
    (wakes : r.heldWakes = s.refresh.heldWakes) : Quiet s { s with banks := banks, refresh := r } :=
  ⟨fun _ => rfl, fun _ _ => le_rfl, rfl, by rw [State.heldRequests, wakes]; rfl, works, fun _ => rfl⟩

theorem Quiet.mapBanks {f : BankCtl → BankCtl} {r : RefreshCtl} (works : ∀ k : BankCtl, k.Works (f k))
    (wakes : r.heldWakes = s.refresh.heldWakes) : Quiet s { s with banks := s.banks.map f, refresh := r } :=
  .setBanks (fun b => by rw [Four.get_map]; exact works (s.bank b)) wakes

theorem Quiet.beginRefresh (s : State) : Quiet s s.beginRefresh := .mapBanks (fun _ => .relabel rfl rfl) rfl

theorem Quiet.liftHold (s : State) : Quiet s s.liftHold :=
  .mapBanks (fun k => (BankCtl.Works.relabel (k := k) (k' := k.toIdle) rfl rfl).trans (.pick k.toIdle)) rfl

theorem Steady.testPlacingStart (s : State) : Steady s s.testPlacingStart := by
  unfold State.testPlacingStart
  split
  · exact .setRefresh rfl
  · exact .refl s

theorem Steady.testRefreshStart (s : State) : Steady s s.testRefreshStart := by
  unfold State.testRefreshStart
  split
  · rename_i due
    exact .beginRefresh (Bool.and_eq_true_iff.1 due).1
  · exact .refl s

theorem Quiet.endRefresh (s : State) : Quiet s s.endRefresh := by
  have ended : Quiet s s.refreshOver := .mapBanks (f := BankCtl.toIdle) (fun _ => .relabel rfl rfl) rfl
  refine ended.trans ?_
  change Quiet s.refreshOver (match s.refreshOver.refresh.power with
    | .active => s.refreshOver.afterRefresh
    | .entering | .retained | .waking => s.refreshOver.testPlacingStart)
  split
  · unfold State.afterRefresh
    split
    · exact .beginRefresh _
    · split
      · exact .beginRefresh _
      · exact (Quiet.liftHold _).trans (Steady.testOpportunity _).toQuiet
  all_goals exact (Steady.testPlacingStart _).toQuiet

theorem Steady.intervalExpiry (s : State) : Steady s s.intervalExpiry := by
  have begun : Steady s s.beginInterval := .setRefresh rfl
  have counted (t : State) : Steady t (if t.refresh.debt < Config.debtCap then t.raiseDebt else t.overrunNow) := by
    split
    · unfold State.raiseDebt
      simp only
      have owed : Steady t (t.modRefresh (fun r => { r with debt := r.debt + 1 })) := .setRefresh rfl
      split
      · exact owed.trans (.placeHold _)
      · exact owed.trans (.testOpportunity _)
    · unfold State.overrunNow
      simp only
      have overrun : Steady t (t.modRefresh (fun r => { r with overrun := true, overrunRaised := true })) := .setRefresh rfl
      split
      · exact overrun.trans (.testOpportunity _)
      · exact (overrun.trans (.raiseAll _ _)).trans (.testOpportunity _)
  unfold State.intervalExpiry
  simp only
  split
  · exact begun.trans (counted _)
  · exact begun.trans (counted _)
  · exact begun
  · exact begun

theorem Steady.loseCells (mask : BitVec 4) (s : State) : Steady s (s.loseCells mask) := by
  refine ⟨⟨fun _ => rfl, fun _ _ => le_rfl, rfl, rfl, fun _ => .refl _, fun p => ?_⟩, fun _ _ _ _ h => h⟩
  rw [State.loseCells]
  simp only [Four.get_map, Option.map_map]
  rfl

theorem Steady.fireLost (w : Watch) (s : State) : Steady s (s.fireLost w) := by
  unfold State.fireLost
  simp only
  split
  · exact (Steady.raise _ _ s).trans (.setWatches _ _)
  · exact (Steady.raise _ _ s).trans (.setWatches _ _)

theorem Quiet.setRetained (mask : BitVec 4) (s : State) : Quiet s (s.setRetained mask) := by
  have banks (b : Bank) : (s.bank b).Works ((s.setRetained mask).bank b) := by
    rw [State.setRetained_bank]
    exact .relabel rfl rfl
  exact .setBanks banks rfl

theorem Steady.modRefresh {f : RefreshCtl → RefreshCtl} (wakes : (f s.refresh).heldWakes = s.refresh.heldWakes) :
    Steady s (s.modRefresh f) := .setRefresh wakes

theorem Quiet.completeEntry (mask : BitVec 4) (s : State) : Quiet s (s.completeEntry mask) := by
  have fired : Steady s ((s.watchesLost mask).foldl (fun t w => t.fireLost w) (s.loseCells mask)) :=
    (Steady.loseCells mask s).trans (.foldl (fun t w => .fireLost w t) _ _)
  have retained := (fired.toQuiet.trans (.setRetained mask _)).trans (Steady.raiseAll .retaining _).toQuiet
  unfold State.completeEntry
  simp only
  split
  · exact retained
  · exact retained.trans (Steady.modRefresh rfl).toQuiet

theorem State.Tagged.endExit (ok : s.Tagged [] [] []) : s.endExit.Tagged [] [] [] := by
  have begun : Steady s (s.modRefresh (fun r => { r with debt := 0 })).beginInterval := .setRefresh rfl
  have woken : Quiet s s.wakeBanks := (begun.toQuiet.trans (.liftHold _)).trans (Steady.modRefresh rfl).toQuiet
  exact ((ok.quiet woken).answerWakes).steady (.raiseAll _ _)

theorem Quiet.closeEnded (s : State) (b : Bank) : Quiet s (s.modBank b BankCtl.closeEnded) := by
  refine .setBanks (r := s.refresh) (fun d => ?_) rfl
  by_cases same : d = b
  · subst same
    rw [Four.get_set_same]
    exact .relabel (BankCtl.closeEnded_queue _) (BankCtl.closeEnded_current _)
  · rw [Four.get_set_other _ _ same]
    exact .refl _

theorem Quiet.openEnded (s : State) (b : Bank) : Quiet s (s.modBank b BankCtl.openEnded) := by
  refine .setBanks (r := s.refresh) (fun d => ?_) rfl
  by_cases same : d = b
  · subst same
    rw [Four.get_set_same]
    exact .relabel (BankCtl.openEnded_queue _) (BankCtl.openEnded_current _)
  · rw [Four.get_set_other _ _ same]
    exact .refl _

theorem State.Tagged.heldInReset (s : State) : s.heldInReset.Tagged [] [] [] :=
  (State.tagged_iff.1 reset_tagsOk).steady (.unseen rfl rfl rfl rfl rfl rfl)

theorem Quiet.advance (s : State) : Quiet s s.advance := by
  refine ⟨fun p => ?_, fun _ _ => le_rfl, rfl, rfl, fun _ => .refl _, fun _ => rfl⟩
  change ((s.hpus.map Hpu.tick).get p).view = _
  rw [Four.get_map]
  rfl

theorem State.Tagged.tick (ok : s.Tagged [] [] []) : s.tick.Tagged [] [] [] := by
  unfold State.tick
  split
  · have advanced := ok.quiet (.advance s)
    simp only
    split
    · exact advanced.steady (.unseen rfl rfl rfl rfl rfl rfl)
    · exact advanced.steady (.unseen rfl rfl rfl rfl rfl rfl)
  · exact ok.steady (.unseen rfl rfl rfl rfl rfl rfl)

/-- A walk that has ended waits for nothing. -/
theorem State.Idle.of_completionDue {p : Port} (ok : s.Tagged [] [] []) (due : s.completionDue p = true) : s.Idle p [] := by
  have walking : ∀ r, s.teardown.get p = some r → r.phase = .walking := by
    intro r record
    rw [State.completionDue, record] at due
    simp only [Bool.and_eq_true, beq_iff_eq] at due
    exact due.1.1
  refine ⟨?_, ?_⟩
  · by_contra some
    obtain ⟨r, record, recovering⟩ := (ok.recovering p).2 (Nat.pos_of_ne_zero some)
    rw [walking r record] at recovering
    cases recovering
  · rintro d ⟨r, record, awaiting, -⟩
    rw [walking r record] at awaiting
    cases awaiting

/-- An access of a cell request ends once its work has handed its answer. -/
theorem State.Tagged.served {a : Access} {t : Tag} {done : State} (ok : s.Tagged [] [] []) (at_ : s.accessing b = some a)
    (host : a.isHost = true) (plain : a.isGroupWrite = false) (tag : a.tag = some t) (ports : done.PortsOk)
    (work : s.Tagged [] [⟨b, a, [(a.port, t)]⟩] [] → done.Tagged [] [⟨b, a, []⟩] []) : (done.finishAccess b).Tagged [] [] [] :=
  ((work (ok.take at_ List.not_mem_nil (fun p u => (Access.count_asks host plain tag p u).ge))).report plain).finishAccess ports

end Happenings

/-- Every command keeps the invariant of the tags. -/
theorem State.Tagged.exec {i : Instr} {s t : State} (ports : s.PortsOk) (ok : s.Tagged [] [] []) (run : exec i s = .next t) :
    t.Tagged [] [] [] := by
  have released {work : State → State} (run : whileReleased s work = .next t) (kept : (work s).Tagged [] [] []) : t.Tagged [] [] [] := by
    unfold whileReleased at run
    cases run
    split
    · exact kept
    · exact ok
  have requested {k : Kind} {p : Port} {f : Frame}
      (run : whileReleased s (fun s => s.receiveRequest k p f (Machine.serveOf k p f)) = .next t) : t.Tagged [] [] [] :=
    released run (ok.receiveRequest ports k p f)
  cases i with
  | operate p f => exact requested (k := .operate) run
  | groupRead p f => exact requested (k := .groupRead) run
  | setRecovery p f => exact requested (k := .setRecovery) run
  | cancel p f => exact requested (k := .cancel) run
  | watch p f => exact requested (k := .watch) run
  | unwatch p f => exact requested (k := .unwatch) run
  | fetchEvents p f => exact requested (k := .fetchEvents) run
  | attnOn p f => exact requested (k := .attnOn) run
  | attnOff p f => exact requested (k := .attnOff) run
  | quiesce p f => exact requested (k := .quiesce) run
  | wake p f => exact requested (k := .wake) run
  | writeRegion p f => exact requested (k := .writeRegion) run
  | readRegion p f => exact requested (k := .readRegion) run
  | writeSettings p f => exact requested (k := .writeSettings) run
  | initCells p f => exact requested (k := .initCells) run
  | commit p f => exact requested (k := .commit) run
  | reopen p f => exact requested (k := .reopen) run
  | stay p f => exact requested (k := .stay) run
  | join p f => exact requested (k := .join) run
  | leave p f => exact requested (k := .leave) run
  | status p f => exact requested (k := .status) run
  | badKind p code f =>
    refine released run ?_
    split
    · exact ok.receiveUnknown p code f
    · exact ok
  | idleFrame p f =>
    change execIdleFrame p f s = _ at run
    unfold execIdleFrame at run
    refine released run ?_
    simp only
    split
    · exact ok.receiveValid p
    · exact (ok.receiveValid p).steady (.raise _ _ _)
  | frameCheck p words =>
    change execFrameCheck p words s = _ at run
    unfold execFrameCheck at run
    refine released run ?_
    split
    · exact ok
    · exact ok.steady (.raise _ _ _)
  | linkLoss p =>
    refine released run ?_
    split
    · exact ok.loseLink ports p
    · exact ok
  | sendIdle p =>
    refine released run ?_
    split
    · exact ok.framed Iff.rfl rfl rfl rfl
    · exact ok
  | responseSent p =>
    refine released run ?_
    split
    · exact (ok.sendFirst p).steady (.testRetention _)
    · exact ok
  | deviceReset =>
    cases run
    exact .heldInReset s
  | resetRelease =>
    cases run
    split
    · exact ok
    · exact ok.steady (.unseen rfl rfl rfl rfl rfl rfl)
  | refreshIntervalExpiry =>
    refine released run ?_
    split
    · exact ok.steady (.intervalExpiry s)
    · exact ok
  | parkExpiry p tag =>
    change execParkExpiry p tag s = _ at run
    unfold execParkExpiry at run
    refine released run ?_
    split
    · rename_i e found
      split
      · exact ok.endParked _ (List.mem_of_find?_eq_some found)
      · exact ok
    · exact ok
  | bankPick b => exact released run (ok.steady (.pickBank b s))
  | rowCloseEnd b =>
    refine released run ?_
    split
    · exact ((ok.quiet (.closeEnded s b)).steady (.pickBank b _)).steady (.testHeld _)
    · exact ok
  | rowOpenEnd b => exact released run (ok.quiet (.openEnded s b))
  | operateAccess b =>
    change execOperateAccess b s = _ at run
    unfold execOperateAccess at run
    refine released run ?_
    split
    · rename_i p tag c op n at_
      refine ok.runAccess ports at_ rfl ⟨portsOk_moves.performOperate tag op trivial ports, State.Tagged.report ?_ rfl⟩
      exact State.Tagged.performOperate (ok.take at_ List.not_mem_nil (fun p u => (Access.count_asks rfl rfl rfl p u).ge)) c op
    · exact ok
  | groupReadAccess b =>
    change execGroupReadAccess b s = _ at run
    unfold execGroupReadAccess at run
    refine released run ?_
    split
    · rename_i p tag c n at_
      exact ok.served at_ rfl rfl rfl (portsOk_moves.replyUp _ _ _ _ ports) (fun taken => State.Tagged.handFirst taken _ _)
    · exact ok
  | setRecoveryAccess b =>
    change execSetRecoveryAccess b s = _ at run
    unfold execSetRecoveryAccess at run
    refine released run ?_
    split
    · rename_i p tag c r n at_
      exact ok.served at_ rfl rfl rfl (portsOk_moves.performSetRecovery tag r trivial ports) (fun taken => taken.performSetRecovery c r)
    · exact ok
  | watchAccess b =>
    change execWatchAccess b s = _ at run
    unfold execWatchAccess at run
    refine released run ?_
    split
    · rename_i p tag c f n at_
      exact ok.served at_ rfl rfl rfl (portsOk_moves.performWatch p tag c f ports) (fun taken => taken.performWatch c f)
    · exact ok
  | groupWrite b =>
    change execGroupWrite b s = _ at run
    unfold execGroupWrite at run
    refine released run ?_
    split
    · rename_i p tag c i n at_
      have taken := (ok.take (l := []) at_ List.not_mem_nil (fun _ _ => Nat.zero_le _)).steady (.writeGroup i (groupBase c) s)
      exact (taken.reportGroupWrite rfl rfl (groupBase c)).finishAccess
        (portsOk_moves.reportGroupWrite _ _ _ (portsOk_moves.writeGroup _ trivial ports))
    · exact ok
  | recoveryAccess b =>
    change execRecoveryAccess b s = _ at run
    unfold execRecoveryAccess at run
    refine released run ?_
    split
    · rename_i p tag c policy default n at_
      have taken := ok.take (l := []) at_ List.not_mem_nil (fun _ _ => Nat.zero_le _)
      exact ok.runAccess ports at_ rfl ⟨portsOk_moves.walk p ports, taken.walkOn ports rfl rfl⟩
    · exact ok
  | teardownWalkStart p =>
    refine released run ?_
    split
    · rename_i due
      exact ok.walkStart ports due
    · exact ok
  | teardownComplete p =>
    refine released run ?_
    split
    · rename_i due
      exact ok.completeTeardown ports (.of_completionDue ok due)
    · exact ok
  | stepToRun => exact released run ok.testRun
  | drainEnd => exact released run ok.testDrain
  | refreshStart => exact released run (ok.steady (.testRefreshStart s))
  | refreshEnd =>
    refine released run ?_
    split
    · exact ok.quiet (.endRefresh s)
    · exact ok
  | retentionDecision => exact released run (ok.steady (.testRetention s))
  | retentionPlacingStart => exact released run (ok.steady (.testPlacingStart s))
  | retentionEntry =>
    change execRetentionEntry s = _ at run
    unfold execRetentionEntry at run
    refine released run ?_
    split
    · exact ok.quiet (.completeEntry _ s)
    · exact ok
  | retentionExitEnd =>
    refine released run ?_
    split
    · exact ok.endExit
    · exact ok

/-- Settles O59: the tags are counted (`State.Tagged`), and every command keeps the counts. -/
theorem everyStepKeepsTheTags : Obligations.EveryStepKeepsTheTags := by
  unfold Obligations.EveryStepKeepsTheTags
  intro s t ports tags run
  have ok := State.tagged_iff.1 tags
  unfold step at run
  split at run
  · cases run
    exact State.tagged_iff.2 ok.tick
  · rename_i c rest _
    exact State.tagged_iff.2 (State.Tagged.exec (s := { s with pending := rest }) (portsOk_moves.pending rest ports)
      (ok.steady (.unseen rfl rfl rfl rfl rfl rfl)) run)

end Sys2Proof.Machine
